-- ==== Sys2Proof/Word.lean ====
section
/-! DEFINITION. The words of the part: bytes, memory words, slot numbers. -/

namespace Sys2Proof

/-- A byte of the management link or of memory. -/
abbrev Byte := BitVec 8

/-- A word of memory: 4 bytes (00_scope.md, Terms). -/
abbrev Word := BitVec 32

/-- The number of a slot of the region table, 0 to 15 (00_scope.md, Numbers Used Throughout). -/
abbrev SlotNo := Fin 16

/-- A set of condition kinds, one bit each, in the encoding of Table 10-8. -/
abbrev Kinds := BitVec 16

end Sys2Proof
end

