-- ==== Sys2Proof/Config.lean ====
section
/-! DEFINITION. The part's fixed numbers (00_scope.md, "Numbers Used Throughout") and its free values. -/

namespace Sys2Proof.Config

/-- Bytes of a line (00_scope.md, Terms). -/
abbrev lineBytes : Nat := 64

/-- The first byte address outside the 28-bit address space (R23). -/
abbrev addressEnd : Nat := 0x10000000

/-- Transactions a port's tracker holds at most (R2). -/
abbrev trackerPlaces : Nat := 8

/-- Records the deferred write queue holds at most (R94). -/
abbrev queuePlaces : Nat := 32

/-- Requests outstanding on the M port at most (R159). -/
abbrev outstandingPlaces : Nat := 8

/-- Line entries of the tracking pool (R28). -/
abbrev poolEntries : Nat := 16384

/-- Lines of a region at most (R23). -/
abbrev maxLines : Nat := 4096

/-- Score one memory error adds (R144). -/
abbrev errorScore : Nat := 8

/-- Score from which the health is WARNED (R145). -/
abbrev warnedScore : Nat := 96

/-- The greatest score; at it a double region is fenced (R145, R146). -/
abbrev fencedScore : Nat := 256

/-- Attempts at the copy of one line (R122, R123). -/
abbrev copyAttempts : Nat := 3

/-- The hold limit after a hard reset, in microseconds (R17). -/
abbrev defaultHoldLimit : Nat := 2000

/-- The arbiter floor after a hard reset (R165). -/
abbrev defaultFloor : Nat := 8

/-- FREE VALUE (log 8). The bits of a response byte that no item of Tables 10-4 to 10-7 occupies: the
spec does not say how they read. Nothing is known of this function; it is applied to the model's counter
`State.freeCount`, which every command that reads such a byte advances. -/
opaque spareBits : Nat → BitVec 64

end Sys2Proof.Config
end

