-- ==== Sys2Proof/Syntax.lean ====
section
/-! DEFINITION. The commands of the part: one constructor of `Instr` for each row of spec/opcode_table.json,
with the operands the row's rule gives it. -/

namespace Sys2Proof

/-- The two upstream ports (Chapter 1). -/
inductive Port where
  | p | s
deriving DecidableEq, Repr

/-- The kind of a request (Table 1-1). -/
inductive Kind where
  | read | write
deriving DecidableEq, Repr

/-- A request of the transaction interface on an upstream port (Table 1-1). The address field carries a word
address, so the byte address is a multiple of 4; the length field encodes exactly the values 1 to 16. -/
structure Request where
  kind : Kind
  /-- The word address: the byte address is four times it. -/
  wordAddr : BitVec 26
  /-- The length in words, less one. -/
  lengthLess1 : Fin 16
  /-- Four byte enables a word, WRITE only; disregarded for a READ (R1). -/
  enables : List (BitVec 4)
  /-- One word a word of length, WRITE only; disregarded for a READ (R1). -/
  data : List Word
  tag : BitVec 6
deriving DecidableEq, Repr

/-- The status of a response on the M port (Table 1-1). -/
inductive MStatus where
  | okay | error
deriving DecidableEq, Repr

/-- The two epoch sources: the inputs EPOCHA and EPOCHB (R77). -/
inductive Source where
  | a | b
deriving DecidableEq, Repr

/-- The 26 parameter bytes of DEFINE, cut into the items of Table 10-4. -/
structure DefineParams where
  /-- Byte 0: kind and presence bits. -/
  flags : Byte
  /-- Byte 1: epoch source and seal group. -/
  sourceGroup : Byte
  /-- Byte 2: writer code. -/
  code : Byte
  /-- Byte 3: writer care mask. -/
  care : Byte
  window : BitVec 32
  size : BitVec 16
  bankA : BitVec 32
  bankB : BitVec 32
  head : BitVec 16
  body : BitVec 16
  tail : BitVec 16
  autoStep : BitVec 16
deriving DecidableEq, Repr

/-- The commands, in the order of spec/opcode_table.json. A management command carries its slot byte and its
parameters as the frame brings them (Table 10-2). -/
inductive Instr where
  /-- REQUEST_ACCEPTANCE (R2): the master of a port presents a request. -/
  | requestAcceptance (port : Port) (req : Request)
  /-- RESPONSE_TAKEN (R4): the master of a port takes the response offered to it. -/
  | responseTaken (port : Port)
  /-- HOLD_RELEASE (R16). -/
  | holdRelease
  /-- TIME_BASE_ADVANCE (R17): one microsecond. -/
  | timeBaseAdvance
  /-- HOLD_EXPIRY (R17). -/
  | holdExpiry
  /-- ARBITER_GRANT (R162). -/
  | arbiterGrant
  /-- MEMORY_TAKES_REQUEST (R158). -/
  | memoryTakesRequest
  /-- M_RESPONSE (R160): the memory presents a response, with read data for a READ answered OKAY. -/
  | mResponse (status : MStatus) (data : List Word)
  /-- COPY_TAKE (R115). -/
  | copyTake
  /-- REPLAY_SELECT (R102). -/
  | replaySelect
  /-- REPLAY_ISSUE (R104). -/
  | replayIssue
  /-- SEALED_ENTRY (R76) of the region in a slot. -/
  | sealedEntry (slot : SlotNo)
  /-- DRAIN_END (R87) of the region in a slot. -/
  | drainEnd (slot : SlotNo)
  /-- RETURN_TO_DEFINED (R40) of the region in a slot. -/
  | returnToDefined (slot : SlotNo)
  /-- SEAL_LINE_EDGE (R70): a rising edge on SEAL0 to SEAL3. -/
  | sealLineEdge (line : Fin 4)
  /-- EPOCH_EDGE (R77): a rising edge on EPOCHA or EPOCHB. -/
  | epochEdge (source : Source)
  /-- DEFINE (R22). -/
  | define (slot : Byte) (params : DefineParams)
  /-- READDEF (R26). -/
  | readdef (slot : Byte)
  /-- UNDEFINE (R25). -/
  | undefine (slot : Byte)
  /-- ACTIVATE (R30). -/
  | activate (slot : Byte)
  /-- ACTIVATE_MATCHED (R31), "ACTIVATE MATCHED" in the spec's text. -/
  | activateMatched (slot : Byte)
  /-- RETIRE (R36). -/
  | retire (slot : Byte)
  /-- REVIVE (R152). -/
  | revive (slot : Byte)
  /-- SEAL (R71): the slot byte is disregarded. -/
  | sealGroups (slot : Byte) (mask : Byte)
  /-- SCROLL (R137). -/
  | scroll (slot : Byte) (offset : BitVec 16)
  /-- STEP (R139). -/
  | setStep (slot : Byte) (value : BitVec 16)
  /-- STATUS (R174). -/
  | status (slot : Byte)
  /-- PROBE (R66). -/
  | probe (slot : Byte) (line : BitVec 16)
  /-- CLEAR (R178): a slot byte of FFh names the device. -/
  | clear (slot : Byte) (mask : Kinds) (options : Byte)
  /-- DEVSTATUS (R176): the slot byte is disregarded. -/
  | devstatus (slot : Byte)
  /-- POLICY (R181): the slot byte is disregarded. -/
  | policy (slot : Byte) (holdLimit : BitVec 16) (floor : Byte) (unmatched : Byte) (mask : Kinds)
  /-- SOFTRESET (R182): the slot byte is disregarded. -/
  | softreset (slot : Byte)
  /-- UNKNOWN_COMMAND (R172): a command byte that is not a code of Table 10-2, with its slot byte. -/
  | unknownCommand (code : Byte) (slot : Byte)
  /-- TRUNCATED_FRAME (R171): the bits clocked before MCS rose, first bit first. -/
  | truncatedFrame (bits : List Bool)
  /-- SOFT_RESET_END (R184). -/
  | softResetEnd
  /-- HARD_RESET (R18): RESETn goes low. -/
  | hardReset
  /-- HARD_RESET_RELEASE (R168): RESETn goes high. -/
  | hardResetRelease
deriving DecidableEq, Repr

end Sys2Proof
end

