-- ==== Sys2Proof/Decode.lean ====
section
/-! DEFINITION. What spells a command. The rows of spec/opcode_table.json give no bits, so no table word spells
one (`decodeTableWord`). The management commands are spelled by frames of the link (R169 to R173, Tables 10-1,
10-2, 10-4): `decodeFrame` reads one, `encodeFrame` writes one. -/

namespace Sys2Proof

/-- The command a word spells by the bits of spec/opcode_table.json: no row gives bits, so none. -/
def decodeTableWord (_nbits _w : Nat) : Option Instr := none

/-- Parameter bytes of each command code; none for a code that is not in Table 10-2. -/
def paramCount (code : Byte) : Option Nat :=
  match code.toNat with
  | 0x01 => some 26 | 0x02 => some 0 | 0x03 => some 0 | 0x04 => some 0 | 0x05 => some 0
  | 0x06 => some 0 | 0x07 => some 0 | 0x10 => some 1 | 0x11 => some 2 | 0x12 => some 2
  | 0x20 => some 0 | 0x21 => some 2 | 0x22 => some 0 | 0x30 => some 3 | 0x31 => some 6
  | 0x3F => some 0
  | _ => none

/-- Bytes clocked before a command with this code is taken (R170): the command byte, the slot byte and the
parameter bytes; an unknown code calls for none of these last (R171). -/
def takenAfter (code : Byte) : Nat := 2 + (paramCount code).getD 0

/-- Two bytes, most significant first (R169). -/
def be16 (hi lo : Byte) : BitVec 16 := hi ++ lo

/-- Four bytes, most significant first (R169). -/
def be32 (b3 b2 b1 b0 : Byte) : BitVec 32 := b3 ++ b2 ++ b1 ++ b0

/-- The two bytes of a value, most significant first (R169). -/
def bytes16 (v : BitVec 16) : List Byte := [v.extractLsb' 8 8, v.extractLsb' 0 8]

/-- The four bytes of a value, most significant first (R169). -/
def bytes32 (v : BitVec 32) : List Byte :=
  [v.extractLsb' 24 8, v.extractLsb' 16 8, v.extractLsb' 8 8, v.extractLsb' 0 8]

/-- The items of Table 10-4 in 26 parameter bytes. -/
def defineParams (p : List Byte) : DefineParams :=
  let at' := fun n => p.getD n 0
  { flags := at' 0, sourceGroup := at' 1, code := at' 2, care := at' 3
    window := be32 (at' 4) (at' 5) (at' 6) (at' 7)
    size := be16 (at' 8) (at' 9)
    bankA := be32 (at' 10) (at' 11) (at' 12) (at' 13)
    bankB := be32 (at' 14) (at' 15) (at' 16) (at' 17)
    head := be16 (at' 18) (at' 19), body := be16 (at' 20) (at' 21)
    tail := be16 (at' 22) (at' 23), autoStep := be16 (at' 24) (at' 25) }

/-- The 26 bytes of Table 10-4. -/
def defineBytes (d : DefineParams) : List Byte :=
  [d.flags, d.sourceGroup, d.code, d.care] ++ bytes32 d.window ++ bytes16 d.size ++ bytes32 d.bankA ++
    bytes32 d.bankB ++ bytes16 d.head ++ bytes16 d.body ++ bytes16 d.tail ++ bytes16 d.autoStep

/-- The command a code, a slot byte and its parameter bytes spell (Table 10-2). -/
def commandOf (code slot : Byte) (p : List Byte) : Instr :=
  let at' := fun n => p.getD n 0
  match code.toNat with
  | 0x01 => .define slot (defineParams p)
  | 0x02 => .readdef slot
  | 0x03 => .undefine slot
  | 0x04 => .activate slot
  | 0x05 => .activateMatched slot
  | 0x06 => .retire slot
  | 0x07 => .revive slot
  | 0x10 => .sealGroups slot (at' 0)
  | 0x11 => .scroll slot (be16 (at' 0) (at' 1))
  | 0x12 => .setStep slot (be16 (at' 0) (at' 1))
  | 0x20 => .status slot
  | 0x21 => .probe slot (be16 (at' 0) (at' 1))
  | 0x22 => .devstatus slot
  | 0x30 => .clear slot (be16 (at' 0) (at' 1)) (at' 2)
  | 0x31 => .policy slot (be16 (at' 0) (at' 1)) (at' 2) (at' 3) (be16 (at' 4) (at' 5))
  | 0x3F => .softreset slot
  | _ => .unknownCommand code slot

/-- A byte of eight bits, most significant first (R169). -/
def byteOfBits (bits : List Bool) : Byte :=
  bits.foldl (fun v b => v <<< 1 ||| (if b then 1 else 0)) 0

/-- The whole bytes of a run of bits; the bits of a last partial byte are left out. -/
def bytesOfBits : Nat → List Bool → List Byte
  | 0, _ => []
  | n + 1, bits => if bits.length < 8 then [] else byteOfBits (bits.take 8) :: bytesOfBits n (bits.drop 8)

/-- The bits of a byte, most significant first (R169). -/
def bitsOfByte (b : Byte) : List Bool := (List.range 8).map fun i => b.getLsbD (7 - i)

/-- A frame whose MCS rises after `bits` ends before its command is taken (R171): at least one bit, and fewer
than the command byte, the slot byte and the parameter bytes its code calls for. -/
def truncated (bits : List Bool) : Bool :=
  bits ≠ [] && (bits.length < 8 || bits.length < 8 * takenAfter (byteOfBits (bits.take 8)))

/-- The command in the whole bytes of a frame: none when the bytes end before the command is taken. What MDI
carries after the last parameter byte is disregarded (R169). -/
def decodeBytes (frame : List Byte) : Option Instr :=
  match frame with
  | code :: slot :: rest =>
    if rest.length < (paramCount code).getD 0 then none else some (commandOf code slot rest)
  | _ => none

/-- What a frame with these bits on MDI makes: a command that is taken, a truncated frame, or nothing when no
bit was clocked (R169 to R171). -/
def decodeFrame (bits : List Bool) : Option Instr :=
  if bits = [] then none
  else if truncated bits then some (.truncatedFrame bits)
  else decodeBytes (bytesOfBits (bits.length / 8) bits)

/-- The bytes that spell a management command on MDI (Table 10-2); none for a command that is no frame. -/
def encodeFrame : Instr → Option (List Byte)
  | .define slot p => some ([0x01, slot] ++ defineBytes p)
  | .readdef slot => some [0x02, slot]
  | .undefine slot => some [0x03, slot]
  | .activate slot => some [0x04, slot]
  | .activateMatched slot => some [0x05, slot]
  | .retire slot => some [0x06, slot]
  | .revive slot => some [0x07, slot]
  | .sealGroups slot mask => some [0x10, slot, mask]
  | .scroll slot offset => some ([0x11, slot] ++ bytes16 offset)
  | .setStep slot value => some ([0x12, slot] ++ bytes16 value)
  | .status slot => some [0x20, slot]
  | .probe slot line => some ([0x21, slot] ++ bytes16 line)
  | .devstatus slot => some [0x22, slot]
  | .clear slot mask options => some ([0x30, slot] ++ bytes16 mask ++ [options])
  | .policy slot hold floor unmatched mask =>
    some ([0x31, slot] ++ bytes16 hold ++ [floor, unmatched] ++ bytes16 mask)
  | .softreset slot => some [0x3F, slot]
  | .unknownCommand code slot => some [code, slot]
  | .requestAcceptance _ _ => none
  | .responseTaken _ => none
  | .holdRelease => none
  | .timeBaseAdvance => none
  | .holdExpiry => none
  | .arbiterGrant => none
  | .memoryTakesRequest => none
  | .mResponse _ _ => none
  | .copyTake => none
  | .replaySelect => none
  | .replayIssue => none
  | .sealedEntry _ => none
  | .drainEnd _ => none
  | .returnToDefined _ => none
  | .sealLineEdge _ => none
  | .epochEdge _ => none
  | .truncatedFrame _ => none
  | .softResetEnd => none
  | .hardReset => none
  | .hardResetRelease => none

end Sys2Proof
end

