-- ==== Sys2Proof/WellFormed.lean ====
section
/-! DEFINITION. Which commands can reach the part: the checks the operand types do not make themselves. -/

namespace Sys2Proof

/-- The length of a request in words, 1 to 16 (Table 1-1). -/
def Request.length (r : Request) : Nat := r.lengthLess1.val + 1

/-- A WRITE carries four byte enables and one data word for each word of its length; a READ carries neither
(Table 1-1). -/
def Request.wellFormed (r : Request) : Bool :=
  match r.kind with
  | .read => r.enables.length == 0 && r.data.length == 0
  | .write => r.enables.length == r.length && r.data.length == r.length

/-- A command as it can reach the part. -/
def Instr.wellFormed : Instr → Bool
  | .requestAcceptance _ req => req.wellFormed
  -- Table 1-1: read data on READ answered OKAY only, at most 16 words
  | .mResponse mstatus data => (mstatus == .okay || data.length == 0) && data.length ≤ 16
  -- R172: the code is not in Table 10-2
  | .unknownCommand code _ => (paramCount code).isNone
  -- R171: the frame ends before its command is taken
  | .truncatedFrame bits => truncated bits
  | .responseTaken _ | .holdRelease | .timeBaseAdvance | .holdExpiry | .arbiterGrant | .memoryTakesRequest
  | .copyTake | .replaySelect | .replayIssue | .sealedEntry _ | .drainEnd _ | .returnToDefined _
  | .sealLineEdge _ | .epochEdge _ | .define _ _ | .readdef _ | .undefine _ | .activate _
  | .activateMatched _ | .retire _ | .revive _ | .sealGroups _ _ | .scroll _ _ | .setStep _ _ | .status _
  | .probe _ _ | .clear _ _ _ | .devstatus _ | .policy _ _ _ _ _ | .softreset _ | .softResetEnd | .hardReset
  | .hardResetRelease => true

end Sys2Proof
end

