-- ==== Sys2Proof/Machine/State.lean ====
section
/-! DEFINITION. The state of the part: every piece INVENTORY.md lists under State, as plain data, and its
values right after a hard reset. -/

namespace Sys2Proof.Machine

/-- The reasons a command could stop the machine with a fault. There are none: what the spec calls faults are
effects on the state (Chapter 8), and every refused access or command is answered (Table 1-6, Table 10-8).
Safe: a stop that cannot happen hides nothing. -/
inductive Fault where
deriving DecidableEq, Repr

/-- The reasons a command could have no meaning. -/
inductive Refusal where
  /-- Raised by `exec` for a command that has no meaning yet; no arm raises it. Safe: it stops. -/
  | notModelled (mnemonic : String)
deriving DecidableEq, Repr

/-! ### Upstream transactions (Chapter 1) -/

/-- The two banks (00_scope.md, Terms). -/
inductive Bank where
  | a | b
deriving DecidableEq, Repr

/-- The response statuses of the P and S ports (Table 1-6). -/
inductive Status where
  | okay | refused | fenced | timeout | memerr | boundary | reset
deriving DecidableEq, Repr

/-- Why a P transaction is held (Section 1.5). -/
inductive HoldReason where
  | demand | copying | queue | overlap
deriving DecidableEq, Repr

/-- The state of a transaction with the items present in it (Table 1-2, R3). -/
inductive TxState where
  /-- resolved to a physical address, waiting to be issued -/
  | accepted
  /-- kept back: the reason, the hold age and the captured hold limit -/
  | held (reason : HoldReason) (age limit : Nat)
  /-- granted, its M response not yet returned -/
  | issued
  /-- settled: the response status, and the read data of a READ answered OKAY -/
  | done (status : Status) (data : List Word)
deriving DecidableEq, Repr

/-- The count a transaction entered and leaves at completion (R4, R62, R63). -/
inductive CountEntry where
  /-- the reader count of a bank -/
  | reader (bank : Bank)
  /-- the draft writer count -/
  | writer
deriving DecidableEq, Repr

/-- A transaction record of a tracker (Table 1-2). -/
structure Tx where
  /-- The place in the tracker, 0 to 7: the model's name for the transaction in the outstanding list (R159, log 11). -/
  place : Nat
  /-- kind, address, length, source tag, byte enables and write data, as accepted -/
  req : Request
  region : Option SlotNo
  bank : Option Bank
  phys : Option Nat
  state : TxState
  /-- the count it entered, if it entered one -/
  count : Option CountEntry
deriving DecidableEq, Repr

/-! ### The region table (Chapters 2 to 4, 7, 8) -/

/-- The slot state of a slot that is not FREE (R21); a FREE slot holds no record. -/
inductive Life where
  | defined | active | retiring
deriving DecidableEq, Repr

/-- The health of a region (R145). -/
inductive Health where
  | healthy | warned | fenced
deriving DecidableEq, Repr

/-- The publish state of a double region (R69). -/
inductive PubState where
  | opened | sealWait | isSealed | draining | halted
deriving DecidableEq, Repr

/-- The state of a line of a double region (Table 3-1). -/
inductive LineState where
  | sync | dirty | stale | copying
deriving DecidableEq, Repr

/-- The items of the definition part that DOUBLE regions alone have (Table 2-1). -/
structure DoublePart where
  bankB : Nat
  group : Fin 4
deriving DecidableEq, Repr

/-- The rotation part (R130). -/
structure Rotation where
  head : Nat
  body : Nat
  tail : Nat
  autoStep : Nat
deriving DecidableEq, Repr

/-- The definition part of a region record (Table 2-1); `double` is absent when the kind is SINGLE. -/
structure Definition where
  double : Option DoublePart
  window : Nat
  size : Nat
  bankA : Nat
  source : Source
  code : BitVec 6
  care : BitVec 6
  rotation : Option Rotation
deriving DecidableEq, Repr

/-- The rotation items of the runtime part (R130). -/
structure Rot where
  offset : Nat
  staged : Option Nat
  step : Nat
deriving DecidableEq, Repr

/-- The publish cycle items of a double region in ACTIVE or RETIRING state (Table 2-2). -/
structure Cycle where
  pub : PubState
  sealPending : Bool
  /-- the generation, 0 to 65535 (R45) -/
  gen : BitVec 16
  front : Bank
  /-- the stale count (R46) -/
  stale : Nat
  /-- the dirty count (R46) -/
  dirty : Nat
  /-- the reader count of bank A, and of bank B (R62) -/
  readersA : Nat
  readersB : Nat
  /-- the draft writer count (R63) -/
  writers : Nat
  /-- the line map, one entry of the tracking pool a line (R46) -/
  lines : List LineState
deriving DecidableEq, Repr

/-- A region record (Tables 2-1 and 2-2). -/
structure Region where
  life : Life
  defn : Definition
  health : Health
  /-- the fault score, 0 to 256 (R144) -/
  score : Nat
  missed : Nat
  timeouts : Nat
  refused : Nat
  lastDiscard : Nat
  conds : Kinds
  rot : Option Rot
  cycle : Option Cycle
deriving DecidableEq, Repr

/-! ### The deferred write queue and the copy engine (Chapters 5, 6) -/

/-- A request on the M request channel (R158). Byte enables and data are there for a WRITE only (Table 1-1). -/
structure MRequest where
  kind : Kind
  addr : Nat
  length : Nat
  enables : List (BitVec 4)
  data : List Word
  tag : BitVec 6
deriving DecidableEq, Repr

/-- A record of the deferred write queue (Table 5-1). -/
structure QRecord where
  region : SlotNo
  /-- the target generation (R97) -/
  target : BitVec 16
  line : Nat
  first : Nat
  count : Nat
  enables : List (BitVec 4)
  data : List Word
  /-- set on the one record the replay unit has selected (R102) -/
  selected : Bool
deriving DecidableEq, Repr

/-- Why the replay unit waits (R103). -/
inductive WaitReason where
  | read | demand | copying
deriving DecidableEq, Repr

/-- The replay unit (Section 5.4). ISSUED keeps the region and the write, which is not withdrawn even when its
record leaves the queue (R104). -/
inductive Replay where
  | idle
  | waiting (reason : WaitReason)
  | issued (region : SlotNo) (write : MRequest)
deriving DecidableEq, Repr

/-- The phase of a copy (Table 6-1). -/
inductive Phase where
  | read | write
deriving DecidableEq, Repr

/-- What a copy slot holds in COPYING state (Table 6-1). -/
structure Copy where
  region : SlotNo
  line : Nat
  source : Bank
  target : Bank
  phase : Phase
  attempt : Nat
  demanded : Bool
  ending : Bool
  buffer : List Word
deriving DecidableEq, Repr

/-- A copy slot (Section 6.2). FINISHING keeps the region number and which operation is outstanding (R124). -/
inductive CopySlot where
  | free
  | copying (copy : Copy)
  | finishing (region : SlotNo) (phase : Phase)
deriving DecidableEq, Repr

/-- Who asked for a demand copy (R120). -/
inductive Requester where
  | pPath | replay
deriving DecidableEq, Repr

/-- An entry of the demand list (R120). -/
structure DemandEntry where
  region : SlotNo
  line : Nat
  requester : Requester
deriving DecidableEq, Repr

/-- The parts of the copy engine that make requests of the arbiter (R119). -/
inductive EngineReq where
  | replay
  | slot (j : Fin 4)
deriving DecidableEq, Repr

/-! ### The arbiter and the link (Chapters 9, 10) -/

/-- The owner of an outstanding request (R159). -/
inductive Owner where
  | port (port : Port) (place : Nat)
  | engine (part : EngineReq)
deriving DecidableEq, Repr

/-- An entry of the outstanding list (R159). -/
structure Outstanding where
  owner : Owner
  kind : Kind
  length : Nat
deriving DecidableEq, Repr

/-- The results of a management command (Table 10-8). -/
inductive Result where
  | ack | busy | badarg | badstate | overlap | nospace | badcmd
deriving DecidableEq, Repr

/-- What a taken command leaves to be clocked out on MDO (R169, R170): the number of bytes of 00h before the
result byte, the result, and the response data. -/
structure Reply where
  lead : Nat
  result : Result
  data : List Byte
deriving DecidableEq, Repr

/-- The state of the part. -/
structure State where
  /-- the commands that wait, first in first out (the model's queue, log 16) -/
  pending : List Instr
  /-- the level of RESETn: true is high (R18) -/
  resetn : Bool
  /-- the time base in microseconds (R17, log 6) -/
  timeBase : Nat
  /-- the P tracker, oldest first (R2) -/
  pTracker : List Tx
  /-- the S tracker, oldest first (R2) -/
  sTracker : List Tx
  /-- the region table; an empty entry is a FREE slot (R21) -/
  table : Vector (Option Region) 16
  /-- the deferred write queue, oldest first (R94) -/
  queue : List QRecord
  /-- the replay unit (R102) -/
  replay : Replay
  /-- the copy slots (Section 6.2) -/
  slots : Vector CopySlot 4
  /-- the demand list, oldest first (R120) -/
  demand : List DemandEntry
  /-- the round-robin pointer (R114) -/
  rrPtr : SlotNo
  /-- ready requests of the engine that are not yet granted, oldest-ready first (R119) -/
  ready : List EngineReq
  /-- those that became ready in the present happening, in the order of R119; empty between happenings (log 15) -/
  readyNow : List EngineReq
  /-- the request the engine presents to the arbiter (R119) -/
  presented : Option EngineReq
  /-- the outstanding list, oldest first (R159) -/
  outstanding : List Outstanding
  /-- the granted request that waits to be taken by the memory (R158) -/
  mRequest : Option MRequest
  /-- the passed-over counts of the P path and of the copy engine (R164) -/
  pPassed : Nat
  cPassed : Nat
  /-- the device condition set (R177) -/
  devConds : Kinds
  /-- the hold limit (R17), the arbiter floor (R165), the unmatched policy (true is REFUSE, R8) and the ATTN mask (R180) -/
  holdLimit : Nat
  floor : Nat
  refuseUnmatched : Bool
  attnMask : Kinds
  /-- the soft reset in progress flag (R182) -/
  softReset : Bool
  /-- what the link has to clock out (R169) -/
  reply : Option Reply
  /-- the model's own counter behind the free values (log 8) -/
  freeCount : Nat
deriving DecidableEq, Repr

/-- The machine right after a hard reset: RESETn has gone high (R18, R42, R109, R129, R168, R185). -/
def State.reset : State where
  pending := []
  resetn := true
  timeBase := 0
  pTracker := []
  sTracker := []
  table := Vector.replicate 16 none
  queue := []
  replay := .idle
  slots := Vector.replicate 4 .free
  demand := []
  rrPtr := 15
  ready := []
  readyNow := []
  presented := none
  outstanding := []
  mRequest := none
  pPassed := 0
  cPassed := 0
  devConds := 0
  holdLimit := Config.defaultHoldLimit
  floor := Config.defaultFloor
  refuseUnmatched := false
  attnMask := 0
  softReset := false
  reply := none
  freeCount := 0

end Sys2Proof.Machine
end

