-- ==== Sys2Proof/Machine/Flags.lean ====
section
/-! DEFINITION. Conditions, counters, the fault score and the health, ATTN, and the encodings of Table 10-8. -/

namespace Sys2Proof.Machine

/-- The condition kinds (Table 10-B), each by the bit of Table 10-8. -/
inductive CondKind where
  | published | missed | timeout | refused | memerr | warned | fenced | discarded | retired
  | unmatchedRefused | unmatchedMemerr | linkError | resetDone
deriving DecidableEq, Repr

/-- The bit of a kind in a condition set, in the CLEAR mask and in the ATTN mask (Table 10-8). -/
def CondKind.bit : CondKind → Nat
  | .published => 0 | .missed => 1 | .timeout => 2 | .refused => 3 | .memerr => 4 | .warned => 5
  | .fenced => 6 | .discarded => 7 | .retired => 8 | .unmatchedRefused => 9 | .unmatchedMemerr => 10
  | .linkError => 11 | .resetDone => 12

/-- The set of one kind. -/
def CondKind.mask (c : CondKind) : Kinds := 1#16 <<< c.bit

/-- Setting a condition; one already set stays set (R177). -/
def setKind (set : Kinds) (c : CondKind) : Kinds := set ||| c.mask

/-- A condition is set. -/
def hasKind (set : Kinds) (c : CondKind) : Bool := set.getLsbD c.bit

/-- The kinds of a region's set: bits 0 to 8 (Table 10-8). -/
def regionKinds : Kinds := 0x01FF
/-- The kinds of the device set: bits 9 to 12 (Table 10-8). -/
def deviceKinds : Kinds := 0x1E00
/-- Every kind: bits 0 to 12. -/
def allKinds : Kinds := 0x1FFF

/-- A mask names kinds of `set` only. -/
def namesOnly (mask set : Kinds) : Bool := mask &&& ~~~set == 0

/-- "Up by one": one is added unless the counter already holds 255 (00_scope.md, Conventions; R179). -/
def upByOne (n : Nat) : Nat := if n < 255 then n + 1 else n

/-- Sets a condition of a region. -/
def Region.setCond (g : Region) (c : CondKind) : Region := { g with conds := setKind g.conds c }

/-- Sets a device condition. -/
def State.setDevCond (s : State) (c : CondKind) : State := { s with devConds := setKind s.devConds c }

/-- A refused write is counted and REFUSED is set (R9, R10, R32, R179). -/
def Region.countRefused (g : Region) : Region := { g with refused := upByOne g.refused }.setCond .refused

/-- A missed epoch is counted and MISSED is set (R81). -/
def Region.countMissed (g : Region) : Region := { g with missed := upByOne g.missed }.setCond .missed

/-- A hold expiry is counted and TIMEOUT is set (R17). -/
def Region.countTimeout (g : Region) : Region := { g with timeouts := upByOne g.timeouts }.setCond .timeout

/-- The health follows a new fault score as long as it is not FENCED; WARNED is set when the health passes from
HEALTHY to WARNED (R145). -/
def Region.withScore (g : Region) (score : Nat) : Region :=
  match g.health with
  | .fenced => { g with score := score }
  | .healthy =>
    if Config.warnedScore ≤ score then { g with score := score, health := .warned }.setCond .warned
    else { g with score := score }
  | .warned => { g with score := score, health := if Config.warnedScore ≤ score then .warned else .healthy }

/-- The score after one more memory error: a sum above 256 is made 256 (R144). -/
def chargedScore (score : Nat) : Nat := min Config.fencedScore (score + Config.errorScore)

/-- The last discard count a retire or a fence leaves; DISCARDED is set when it is above 0 (R37, R108;
log 14). -/
def Region.recordDiscard (g : Region) (n : Nat) : Region :=
  if n = 0 then { g with lastDiscard := 0 } else { g with lastDiscard := n }.setCond .discarded

/-- ATTN: high while at least one condition whose kind is in the ATTN mask is set, in the device set or in the set
of any slot that is not FREE; low while RESETn is low (R180). -/
def State.attn (s : State) : Bool :=
  s.resetn && ((s.devConds &&& s.attnMask) != 0 ||
    s.table.toList.any fun
      | some g => (g.conds &&& s.attnMask) != 0
      | none => false)

/-! ### Codes of Table 10-8 -/

/-- Result codes. -/
def Result.code : Result → Byte
  | .ack => 0x01 | .busy => 0x02 | .badarg => 0x03 | .badstate => 0x04 | .overlap => 0x05 | .nospace => 0x06
  | .badcmd => 0x07

/-- Slot state codes; a FREE slot is 00h. -/
def Life.code : Life → Byte
  | .defined => 0x01 | .active => 0x02 | .retiring => 0x03

/-- Publish state codes. -/
def PubState.code : PubState → Byte
  | .opened => 0x00 | .sealWait => 0x01 | .isSealed => 0x02 | .draining => 0x03 | .halted => 0x04

/-- Health codes. -/
def Health.code : Health → Byte
  | .healthy => 0x00 | .warned => 0x01 | .fenced => 0x02

/-- Line state codes. -/
def LineState.code : LineState → Byte
  | .sync => 0x00 | .dirty => 0x01 | .stale => 0x02 | .copying => 0x03

end Sys2Proof.Machine
end

