-- ==== Sys2Proof/Machine/Operands.lean ====
section
/-! DEFINITION. The operand forms: where a request lies, which bytes it covers, which bank address a line has,
the writer filter, the scan-side mapping, and the checks of DEFINE. -/

namespace Sys2Proof

/-! ### Requests (R1, R5, R52) -/

/-- The byte address of a request: its first byte (R5). -/
def Request.addr (r : Request) : Nat := 4 * r.wordAddr.toNat

/-- The last byte of a request: its address plus four times its length, less one (R5). -/
def Request.lastByte (r : Request) : Nat := r.addr + 4 * r.length - 1

/-- The request crosses a line: the line indexes of its first and last byte differ (R5). -/
def Request.crossesLine (r : Request) : Bool :=
  r.addr / Config.lineBytes ≠ r.lastByte / Config.lineBytes

/-- A full-line write: 16 words with every byte enable of every word set (R52). -/
def Request.fullLine (r : Request) : Bool :=
  r.length == 16 && r.enables.length == 16 && r.enables.all (· == 0xF#4)

/-- What the tracker keeps of a request: the byte enables and write data of a READ are disregarded (R1). -/
def Request.recorded (r : Request) : Request :=
  match r.kind with
  | .read => { r with enables := [], data := [] }
  | .write => r

end Sys2Proof

namespace Sys2Proof.Machine

/-! ### Banks and lines (R33, R44) -/

/-- The other bank. -/
def Bank.other : Bank → Bank
  | .a => .b
  | .b => .a

/-- The draft bank: the one that is not the front bank (R44). -/
def Cycle.draft (c : Cycle) : Bank := c.front.other

/-- The draft generation: the generation plus one, modulo 65536 (R45). -/
def Cycle.draftGen (c : Cycle) : BitVec 16 := c.gen + 1

/-- The base of a bank. A single region has bank A alone (Table 2-1). -/
def Definition.bankBase (d : Definition) : Bank → Nat
  | .a => d.bankA
  | .b => match d.double with
    | some p => p.bankB
    | none => d.bankA

/-- A region's window, or a bank of it, as first byte and first byte past it (Section 2.1). -/
def Definition.extent (d : Definition) (base : Nat) : Nat × Nat := (base, base + Config.lineBytes * d.size)

/-- The byte lies in the range. -/
def inExtent (byte : Nat) (x : Nat × Nat) : Bool := x.1 ≤ byte && byte < x.2

/-- The byte lies in the window (R6). -/
def Definition.inWindow (d : Definition) (byte : Nat) : Bool := inExtent byte (d.extent d.window)

/-- The banks a definition has. -/
def Definition.banks (d : Definition) : List Nat :=
  d.bankA :: match d.double with
    | some p => [p.bankB]
    | none => []

/-- The byte lies in a bank of the region (R7). -/
def Definition.inBanks (d : Definition) (byte : Nat) : Bool :=
  d.banks.any fun base => inExtent byte (d.extent base)

/-- The window and the banks: what must not overlap another live region (R27). -/
def Definition.extents (d : Definition) : List (Nat × Nat) := (d.window :: d.banks).map d.extent

/-- Two ranges of whole lines share at least one line (R27). -/
def extentsOverlap (x y : Nat × Nat) : Bool := x.1 < y.2 && y.1 < x.2

/-- Some range of one definition overlaps some range of the other (R27). -/
def Definition.overlaps (d e : Definition) : Bool :=
  d.extents.any fun x => e.extents.any fun y => extentsOverlap x y

/-- The line index of an address within the region, counted from 0 at the window base (R44). -/
def Definition.lineOf (d : Definition) (addr : Nat) : Nat := (addr - d.window) / Config.lineBytes

/-- The byte offset of an address within its line (R131). -/
def Definition.byteInLine (d : Definition) (addr : Nat) : Nat := (addr - d.window) % Config.lineBytes

/-- The word offset of an address within its line (R95). -/
def Definition.wordInLine (d : Definition) (addr : Nat) : Nat := d.byteInLine addr / 4

/-- The physical address of a producer access in a bank: the bank base plus the access's address less the
window base (R33, R44). -/
def Definition.bankAddr (d : Definition) (bank : Bank) (addr : Nat) : Nat :=
  d.bankBase bank + (addr - d.window)

/-- The physical address of line `line` in a bank (R44, R104, R116). -/
def Definition.lineAddr (d : Definition) (bank : Bank) (line : Nat) : Nat :=
  d.bankBase bank + Config.lineBytes * line

/-! ### The writer filter (R32) -/

/-- The filter passes a tag when it equals the writer code in every bit the care mask sets. -/
def Definition.filterPasses (d : Definition) (tag : BitVec 6) : Bool := tag &&& d.care == d.code &&& d.care

/-! ### The scan-side mapping (R131) -/

/-- The physical line an S read of line `i` reaches at an offset. -/
def Rotation.physLine (r : Rotation) (offset i : Nat) : Nat :=
  if i < r.head || r.head + r.body ≤ i then i else r.head + (i - r.head + offset) % r.body

/-- The scan-side mapping of a region: the identity without a rotation part. -/
def Region.physLine (g : Region) (i : Nat) : Nat :=
  match g.defn.rotation, g.rot with
  | some r, some x => r.physLine x.offset i
  | _, _ => i

/-- The physical address of an S read in a bank: the word offset within the line is kept (R131). -/
def Region.scanAddr (g : Region) (bank : Bank) (addr : Nat) : Nat :=
  g.defn.lineAddr bank (g.physLine (g.defn.lineOf addr)) + g.defn.byteInLine addr

/-! ### Coverage of bytes (R58, R59, R100) -/

/-- The record covers byte `b` of its line: the word is covered and its byte enable is set (R100). -/
def QRecord.coversByte (r : QRecord) (b : Nat) : Bool :=
  r.first ≤ b / 4 && b / 4 < r.first + r.count && (r.enables.getD (b / 4 - r.first) 0).getLsbD (b % 4)

/-- A record covers its line in full: words 0 to 15 with every byte enabled (R58). -/
def QRecord.fullLine (r : QRecord) : Bool :=
  r.first == 0 && r.count == 16 && r.enables.length == 16 && r.enables.all (· == 0xF#4)

/-- The read covers byte `b` of line `line` of the region (R100). -/
def Definition.readCovers (d : Definition) (req : Request) (line b : Nat) : Bool :=
  d.lineOf req.addr == line && d.byteInLine req.addr ≤ b && b < d.byteInLine req.addr + 4 * req.length

/-- A read of the region overlaps a record of it: some byte of the read is a byte that the record covers with
its byte enable set (R100). -/
def Definition.overlapsRecord (d : Definition) (req : Request) (r : QRecord) : Bool :=
  (List.range Config.lineBytes).any fun b => d.readCovers req r.line b && r.coversByte b

/-! ### The definition DEFINE carries (R22 to R24, R173) -/

/-- Byte 0 bit 0: the kind is DOUBLE (Table 10-4). -/
def paramsDouble (p : DefineParams) : Bool := p.flags.getLsbD 0
/-- Byte 0 bit 1: bank B is present. -/
def paramsBankB (p : DefineParams) : Bool := p.flags.getLsbD 1
/-- Byte 0 bit 2: the seal group is present. -/
def paramsGroup (p : DefineParams) : Bool := p.flags.getLsbD 2
/-- Byte 0 bit 3: the rotation part is present. -/
def paramsRotation (p : DefineParams) : Bool := p.flags.getLsbD 3

/-- The definition part in the parameters of DEFINE; bits outside the fields, and the bytes of items marked
absent, are disregarded (R173). -/
def definitionOf (p : DefineParams) : Definition where
  double := if paramsDouble p then
      some { bankB := p.bankB.toNat, group := (p.sourceGroup.extractLsb' 0 2).toFin }
    else none
  window := p.window.toNat
  size := p.size.toNat
  bankA := p.bankA.toNat
  source := if p.sourceGroup.getLsbD 7 then .b else .a
  code := p.code.extractLsb' 0 6
  care := p.care.extractLsb' 0 6
  rotation := if paramsRotation p then
      some { head := p.head.toNat, body := p.body.toNat, tail := p.tail.toNat, autoStep := p.autoStep.toNat }
    else none

/-- Check 1 of R23: a DOUBLE definition carries a bank B base and a seal group, a SINGLE one neither. -/
def presenceOk (p : DefineParams) : Bool :=
  paramsBankB p == paramsDouble p && paramsGroup p == paramsDouble p

/-- The bases of a definition: window and banks. -/
def Definition.bases (d : Definition) : List Nat := d.window :: d.banks

/-- Checks 2 to 4 of R23: alignment, size and range. -/
def Definition.placedOk (d : Definition) : Bool :=
  d.bases.all (fun base => base % Config.lineBytes == 0) &&
  (1 ≤ d.size && d.size ≤ Config.maxLines) &&
  d.bases.all (fun base => base + Config.lineBytes * d.size ≤ Config.addressEnd)

/-- The rotation check of R24. -/
def Definition.rotationOk (d : Definition) : Bool :=
  match d.rotation with
  | none => true
  | some r => 1 ≤ r.body && r.head + r.body + r.tail == d.size && r.autoStep < r.body

/-- The bank check of R24: the banks of a double region share no line. -/
def Definition.banksApart (d : Definition) : Bool :=
  match d.double with
  | none => true
  | some p => !extentsOverlap (d.extent d.bankA) (d.extent p.bankB)

/-- Every check of R23 and R24. -/
def defineOk (p : DefineParams) : Bool :=
  presenceOk p && (definitionOf p).placedOk && (definitionOf p).rotationOk && (definitionOf p).banksApart

end Sys2Proof.Machine
end

