-- ==== Sys2Proof/Machine/Ops.lean ====
section
/-! DEFINITION. The named operations over the region table, the line maps, the trackers, the queue, the demand
list and the ready requests of the engine, which the meanings share. -/

namespace Sys2Proof.Machine

/-! ### The region table -/

/-- The record in a slot; none for a FREE slot (R21). -/
def State.region? (s : State) (k : SlotNo) : Option Region := s.table[k]

/-- The publish cycle items of the region in a slot; none unless it is a live double region (Table 2-2). -/
def State.cycle? (s : State) (k : SlotNo) : Option Cycle := (s.region? k).bind Region.cycle

/-- Puts a record into a slot, or frees it. -/
def State.putRegion (s : State) (k : SlotNo) (g : Option Region) : State := { s with table := s.table.set k g }

/-- Changes the record of a slot; a FREE slot stays FREE. -/
def State.modRegion (s : State) (k : SlotNo) (f : Region → Region) : State :=
  s.putRegion k ((s.region? k).map f)

/-- Changes every record, each for itself. -/
def State.mapRegions (s : State) (f : SlotNo → Region → Region) : State :=
  { s with table := Vector.ofFn fun k => (s.table[k]).map (f k) }

/-- Changes the publish cycle items of a region; a region without them stays as it is. -/
def Region.modCycle (g : Region) (f : Cycle → Cycle) : Region := { g with cycle := g.cycle.map f }

/-- Changes the publish cycle items of the region in a slot. -/
def State.modCycle (s : State) (k : SlotNo) (f : Cycle → Cycle) : State := s.modRegion k (·.modCycle f)

/-- The region is live: ACTIVE or RETIRING (R7, R27, R28). -/
def Region.live (g : Region) : Bool := g.life != .defined

/-- Entries of the tracking pool a region holds: one a line of its line map (R28). -/
def Region.poolHeld (g : Region) : Nat :=
  match g.cycle with
  | some c => c.lines.length
  | none => 0

/-- Entries of the tracking pool in use (R28, R176). -/
def State.poolUsed (s : State) : Nat :=
  (s.table.toList.map fun
    | some g => g.poolHeld
    | none => 0).sum

/-! ### Line maps and counts (R46, R47, R62, R63) -/

/-- The state of a line. -/
def Cycle.line (c : Cycle) (i : Nat) : LineState := c.lines.getD i .sync

/-- 1 for a line that counts as stale: STALE or COPYING (R46). -/
def LineState.staleUnit : LineState → Nat
  | .stale => 1 | .copying => 1 | .sync => 0 | .dirty => 0

/-- 1 for a line that counts as dirty (R46). -/
def LineState.dirtyUnit : LineState → Nat
  | .dirty => 1 | .sync => 0 | .stale => 0 | .copying => 0

/-- Moves a line to a state and adjusts the counts with it (R46, Table 3-2). -/
def Cycle.setLine (c : Cycle) (i : Nat) (new : LineState) : Cycle :=
  match c.lines[i]? with
  | none => c
  | some old =>
    { c with
      lines := c.lines.set i new
      stale := c.stale + new.staleUnit - old.staleUnit
      dirty := c.dirty + new.dirtyUnit - old.dirtyUnit }

/-- The reader count of a bank (R62). -/
def Cycle.readers (c : Cycle) : Bank → Nat
  | .a => c.readersA
  | .b => c.readersB

/-- A transaction enters a count (R62, R63). -/
def Cycle.enter (c : Cycle) : CountEntry → Cycle
  | .reader .a => { c with readersA := c.readersA + 1 }
  | .reader .b => { c with readersB := c.readersB + 1 }
  | .writer => { c with writers := c.writers + 1 }

/-- A transaction leaves a count at its completion (R4, R62, R63). -/
def Cycle.leave (c : Cycle) : CountEntry → Cycle
  | .reader .a => { c with readersA := c.readersA - 1 }
  | .reader .b => { c with readersB := c.readersB - 1 }
  | .writer => { c with writers := c.writers - 1 }

/-- The lines a fence takes from the copy slots return from COPYING to STALE; the counts do not change
(R60, R147, R148). -/
def Cycle.giveUpCopies (c : Cycle) : Cycle :=
  { c with lines := c.lines.map fun l => if l = .copying then .stale else l }

/-! ### Trackers (R2, R3) -/

/-- A port's tracker. -/
def State.tracker (s : State) : Port → List Tx
  | .p => s.pTracker
  | .s => s.sTracker

/-- Replaces a port's tracker. -/
def State.setTracker (s : State) (port : Port) (l : List Tx) : State :=
  match port with
  | .p => { s with pTracker := l }
  | .s => { s with sTracker := l }

/-- The transaction is HELD. -/
def Tx.isHeld (t : Tx) : Bool :=
  match t.state with
  | .held _ _ _ => true
  | .accepted | .issued | .done _ _ => false

/-- The held P transaction, if there is one (R2). -/
def State.heldTx (s : State) : Option Tx := s.pTracker.find? Tx.isHeld

/-- The lowest tracker place that no record has (log 11). -/
def freePlace (l : List Tx) : Nat :=
  ((List.range Config.trackerPlaces).find? fun n => l.all fun t => t.place != n).getD 0

/-- A port accepts a request when RESETn is high, no soft reset is in progress, its tracker holds fewer than 8
transactions and, on the P port, none is HELD (R2). -/
def State.accepts (s : State) (port : Port) : Bool :=
  s.resetn && !s.softReset && (s.tracker port).length < Config.trackerPlaces &&
    (port == .s || s.heldTx.isNone)

/-- Answers the held P transaction of a region and ends its hold (R16); the count it entered stays entered. -/
def State.answerHeldOf (s : State) (k : SlotNo) (status : Status) : State :=
  { s with pTracker := s.pTracker.map fun t =>
      if t.isHeld && t.region == some k then { t with state := .done status [] } else t }

/-- Replaces the held transaction by what `f` makes of it. -/
def State.modHeld (s : State) (f : Tx → Tx) : State :=
  { s with pTracker := s.pTracker.map fun t => if t.isHeld then f t else t }

/-! ### The deferred write queue (R94 to R97) -/

/-- The queue holds a record of the region. -/
def State.hasRecord (s : State) (k : SlotNo) : Bool := s.queue.any fun r => r.region == k

/-- The queue holds a record of the region with this target generation. -/
def hasTarget (queue : List QRecord) (k : SlotNo) (gen : BitVec 16) : Bool :=
  queue.any fun r => r.region == k && r.target == gen

/-- The target generation of a record appended now (R97). -/
def Cycle.target (c : Cycle) : BitVec 16 :=
  match c.pub with
  | .opened | .halted => c.gen + 1
  | .sealWait | .isSealed => c.gen + 2
  | .draining => if c.sealPending then c.gen + 2 else c.gen + 1

/-- The record of a posted write (Table 5-1, R95). -/
def recordOf (k : SlotNo) (d : Definition) (c : Cycle) (req : Request) : QRecord where
  region := k
  target := c.target
  line := d.lineOf req.addr
  first := d.wordInLine req.addr
  count := req.length
  enables := req.enables
  data := req.data
  selected := false

/-- A read of the region in slot `k` overlaps at least one of its queued records (R100). -/
def State.overlapsQueue (s : State) (k : SlotNo) (d : Definition) (req : Request) : Bool :=
  s.queue.any fun r => r.region == k && d.overlapsRecord req r

/-- The record the replay unit has selected. -/
def State.selectedRecord (s : State) : Option QRecord := s.queue.find? QRecord.selected

/-- The replay unit's write is issued and its response has not returned. -/
def Replay.isIssued : Replay → Bool
  | .issued _ _ => true
  | .idle | .waiting _ => false

/-- Records of a region that would be discarded: those whose write the replay unit has not issued (R37, R108). -/
def State.unissuedRecords (s : State) (k : SlotNo) : Nat :=
  s.queue.countP fun r => r.region == k && !(r.selected && s.replay.isIssued)

/-- The replay unit waits on a record of the region. -/
def State.replayWaitsFor (s : State) (k : SlotNo) : Bool :=
  match s.replay with
  | .waiting _ => s.queue.any fun r => r.selected && r.region == k
  | .idle | .issued _ _ => false

/-- A retire or a fence takes every record of the region out of the queue; the others keep their order. A unit
that waited on one of them becomes IDLE, one that has issued stays ISSUED (R37, R107, R108). -/
def State.dropRecords (s : State) (k : SlotNo) : State :=
  { s with
    queue := s.queue.filter fun r => r.region != k
    replay := if s.replayWaitsFor k then .idle else s.replay }

/-! ### The demand list (R120, R121) -/

/-- The demand list has an entry for the line. -/
def State.demands (s : State) (k : SlotNo) (line : Nat) : Bool :=
  s.demand.any fun e => e.region == k && e.line == line

/-- Takes the entry for a line out of the list (R115, R121). -/
def State.undemand (s : State) (k : SlotNo) (line : Nat) : State :=
  { s with demand := s.demand.filter fun e => !(e.region == k && e.line == line) }

/-- Takes every entry for a line of the region out of the list (R37, R148). -/
def State.undemandRegion (s : State) (k : SlotNo) : State :=
  { s with demand := s.demand.filter fun e => e.region != k }

/-- The replay unit waits DEMAND on the line. -/
def State.replayDemands (s : State) (k : SlotNo) (line : Nat) : Bool :=
  s.replay == .waiting .demand && s.queue.any fun r => r.selected && r.region == k && r.line == line

/-- What becomes of the P path's earlier entry when it makes a new one: it leaves the list, unless the replay unit
waits DEMAND on its line; it then becomes the replay unit's (R120). -/
def State.replaced (s : State) (e : DemandEntry) : Option DemandEntry :=
  if e.requester = .replay then some e
  else if s.replayDemands e.region e.line then some { e with requester := .replay }
  else none

/-- An entry joins the demand list, unless the list already holds one for the line (R120). -/
def State.joinDemand (s : State) (who : Requester) (k : SlotNo) (line : Nat) : State :=
  if s.demands k line then s
  else
    { s with demand :=
        (if who = .pPath then s.demand.filterMap s.replaced else s.demand) ++ [⟨k, line, who⟩] }

/-! ### Ready requests of the engine (R119) -/

/-- The order of requests that become ready in one happening: the replay write, then the slots (R119). -/
def EngineReq.rank : EngineReq → Nat
  | .replay => 0
  | .slot j => j.val + 1

/-- Puts a request at its place among those that become ready in one happening. -/
def insertByRank (e : EngineReq) : List EngineReq → List EngineReq
  | [] => [e]
  | x :: xs => if e.rank < x.rank then e :: x :: xs else x :: insertByRank e xs

/-- A request of the engine becomes ready (R119). -/
def State.makeReady (s : State) (e : EngineReq) : State := { s with readyNow := insertByRank e s.readyNow }

/-- Withdraws every request of the engine that satisfies `p`, even the presented one (R124, R128). -/
def State.withdraw (s : State) (p : EngineReq → Bool) : State :=
  { s with
    ready := s.ready.filter fun e => !p e
    readyNow := s.readyNow.filter fun e => !p e
    presented := if s.presented.any p then none else s.presented }

/-- The slot holds a line of the region. -/
def CopySlot.holds (c : CopySlot) (k : SlotNo) : Bool :=
  match c with
  | .copying x => x.region == k
  | .free | .finishing _ _ => false

/-- The request is that of a slot that holds a line of the region. -/
def State.slotReqOf (s : State) (k : SlotNo) : EngineReq → Bool
  | .replay => false
  | .slot j => (s.slots[j]).holds k

/-- A request of the slot is granted and not yet answered (R124). -/
def State.slotOutstanding (s : State) (j : Fin 4) : Bool :=
  s.outstanding.any fun o => o.owner == .engine (.slot j)

/-- Puts a copy slot into a state. -/
def State.setSlot (s : State) (j : Fin 4) (c : CopySlot) : State := { s with slots := s.slots.set j c }

/-- A slot that gives its line up: it goes to FINISHING with its granted operation, or becomes FREE
(R124, R128). -/
def State.givenUp (s : State) (j : Fin 4) : CopySlot :=
  match s.slots[j] with
  | .copying c => if s.slotOutstanding j then .finishing c.region c.phase else .free
  | .free => .free
  | .finishing k ph => .finishing k ph

/-- Every slot that holds a line of the region gives it up (R124). -/
def State.giveUpSlots (s : State) (k : SlotNo) : State :=
  { s with slots := Vector.ofFn fun j => if (s.slots[j]).holds k then s.givenUp j else s.slots[j] }

/-! ### Replies of the link (R169, R170) -/

/-- A command is taken and its reply fixed: `params` is its number of parameter bytes. -/
def State.answer (s : State) (params : Nat) (result : Result) (data : List Byte) : State :=
  { s with reply := some { lead := params + 3, result := result, data := data } }

/-- Byte `pos` of MDO in the frame: 00h up to the turnaround byte, then the result byte, then the response data,
then 00h (R169, Table 10-1). -/
def Reply.mdo (r : Reply) (pos : Nat) : Byte :=
  if pos < r.lead then 0 else if pos = r.lead then r.result.code else r.data.getD (pos - r.lead - 1) 0

/-- Byte `pos` of MDO in the frame whose command was taken last; 00h when no command was taken in it. -/
def State.mdo (s : State) (pos : Nat) : Byte :=
  match s.reply with
  | some r => r.mdo pos
  | none => 0

/-- The response a port offers its master: that of its oldest transaction, when it is DONE (R4); while RESETn is
low none is sent (R18). -/
def State.offered (s : State) (port : Port) : Option (Status × List Word) :=
  if s.resetn then
    match (s.tracker port).head? with
    | some t => match t.state with
      | .done status data => some (status, data)
      | .accepted | .held _ _ _ | .issued => none
    | none => none
  else none

end Sys2Proof.Machine
end

