-- ==== Sys2Proof/Machine/Engine.lean ====
section
/-! DEFINITION. The copy engine and the replay unit: choosing and taking lines, selecting, issuing and holding
back deferred writes, and presenting the engine's requests (Chapters 5 and 6). -/

namespace Sys2Proof.Machine

/-! ### Catch-up work (R111 to R115) -/

/-- A direct draft write to the line is in ACCEPTED state: the line is barred (R61). -/
def State.barred (s : State) (k : SlotNo) (d : Definition) (line : Nat) : Bool :=
  s.pTracker.any fun t =>
    t.state == .accepted && t.count == some .writer && t.region == some k && d.lineOf t.req.addr == line

/-- The region's publish state lets the engine and the replay unit work for it: OPEN or SEAL_WAIT. -/
def PubState.working : PubState → Bool
  | .opened | .sealWait => true
  | .isSealed | .draining | .halted => false

/-- The line is catch-up work (R111). -/
def State.isWork (s : State) (k : SlotNo) (line : Nat) : Bool :=
  match s.region? k with
  | none => false
  | some g => match g.cycle with
    | none => false
    | some c =>
      g.life == .active && c.pub.working && c.lines[line]? == some .stale && !s.barred k g.defn line

/-- The lowest-numbered line of catch-up work of a region (R114). -/
def State.lowestWork (s : State) (k : SlotNo) : Option Nat :=
  match s.cycle? k with
  | none => none
  | some c => (List.range c.lines.length).find? fun i => s.isWork k i

/-- The slot numbers in the order of the round-robin search: from the one after the pointer round to the
pointer's own (R114). -/
def searchOrder (ptr : SlotNo) : List SlotNo := (List.finRange 16).map fun i => ptr + 1 + i

/-- The round-robin choice: a region and its line (R114). -/
def State.roundRobin (s : State) : Option (SlotNo × Nat) :=
  (searchOrder s.rrPtr).findSome? fun k => (s.lowestWork k).map fun i => (k, i)

/-- The first entry of the demand list whose line is catch-up work (R113). -/
def State.demandChoice (s : State) : Option DemandEntry := s.demand.find? fun e => s.isWork e.region e.line

/-- The lowest-numbered FREE slot (R112). -/
def State.freeSlot (s : State) : Option (Fin 4) := (List.finRange 4).find? fun j => s.slots[j] == .free

/-- The replay unit's record on a line that a slot takes now waits COPYING (R103, R115). -/
def State.nowCopying (s : State) (k : SlotNo) (line : Nat) : State :=
  if s.replayDemands k line then { s with replay := .waiting .copying } else s

/-- A FREE slot takes a line (R115). -/
def State.takeLine (s : State) (j : Fin 4) (k : SlotNo) (line : Nat) : State :=
  match s.cycle? k with
  | none => s
  | some c =>
    ((((s.setSlot j (.copying
        { region := k, line := line, source := c.front, target := c.draft, phase := .read, attempt := 1
          demanded := s.demands k line, ending := false, buffer := [] })).nowCopying k line).undemand k line).modCycle
        k (·.setLine line .copying)).makeReady (.slot j)

/-- One take: the lowest-numbered FREE slot takes the first choice of the demand list or, when no entry can be
taken, of the round-robin, whose pointer then moves (R112 to R115). -/
def State.copyTake (s : State) : State :=
  match s.freeSlot with
  | none => s
  | some j => match s.demandChoice with
    | some e => s.takeLine j e.region e.line
    | none => match s.roundRobin with
      | some (k, line) => { s with rrPtr := k }.takeLine j k line
      | none => s

/-- The engine takes lines until no slot is FREE or no catch-up work remains; there are four slots (R112). -/
def State.copyTakes (s : State) : State := s.copyTake.copyTake.copyTake.copyTake

/-! ### The replay unit (R102 to R104) -/

/-- The record may be selected: its region is ACTIVE, in OPEN or SEAL_WAIT, its target is the draft generation and
the draft writer count is 0 (R102). -/
def State.eligible (s : State) (r : QRecord) : Bool :=
  match s.region? r.region with
  | none => false
  | some g => match g.cycle with
    | none => false
    | some c => g.life == .active && c.pub.working && r.target == c.draftGen && c.writers == 0

/-- Marks the first record that satisfies `p` as the selected one. -/
def markFirst (p : QRecord → Bool) : List QRecord → List QRecord
  | [] => []
  | r :: rs => if p r then { r with selected := true } :: rs else r :: markFirst p rs

/-- A P read of the region in ACCEPTED state, resolved to the draft bank, covers a byte that the record covers
(R59, log 17). -/
def State.readBars (s : State) (r : QRecord) (d : Definition) (c : Cycle) : Bool :=
  s.pTracker.any fun t =>
    t.state == .accepted && t.req.kind == .read && t.region == some r.region && t.bank == some c.draft &&
      d.overlapsRecord t.req r

/-- The write of a record: to the draft bank, at the bank base plus 64 times the line plus 4 times the first word,
with source tag 3Fh (R104, R158). -/
def replayWrite (r : QRecord) (d : Definition) (c : Cycle) : MRequest where
  kind := .write
  addr := d.lineAddr c.draft r.line + 4 * r.first
  length := r.count
  enables := r.enables
  data := r.data
  tag := 0x3F

/-- The replay unit issues the record's write: the line becomes DIRTY with its counts, a demand entry for a
superseded line leaves, and the write becomes a ready request of the engine (R58, R104). -/
def State.issueReplay (s : State) (r : QRecord) (d : Definition) (c : Cycle) : State :=
  (({ s with replay := .issued r.region (replayWrite r d c) }.undemand r.region r.line).modCycle r.region
    (·.setLine r.line .dirty)).makeReady .replay

/-- What the unit does with its selected record: issues it, or waits with a reason (R59, R103). -/
def State.replayDecide (s : State) (r : QRecord) : State :=
  match s.region? r.region with
  | none => s
  | some g => match g.cycle with
    | none => s
    | some c =>
      if c.line r.line = .copying then { s with replay := .waiting .copying }
      else if c.line r.line = .stale ∧ r.fullLine = false then
        { s.joinDemand .replay r.region r.line with replay := .waiting .demand }
      else if s.readBars r g.defn c then { s with replay := .waiting .read }
      else s.issueReplay r g.defn c

/-- The IDLE unit selects the oldest eligible record and issues it or waits (R102, R103). -/
def State.replaySelect (s : State) : State :=
  match s.replay with
  | .idle => match s.queue.find? s.eligible with
    | some r => { s with queue := markFirst s.eligible s.queue }.replayDecide r
    | none => s
  | .waiting _ | .issued _ _ => s

/-- The WAITING unit issues its record once nothing holds it back (R103). -/
def State.replayIssue (s : State) : State :=
  match s.replay with
  | .waiting _ => match s.selectedRecord with
    | some r => s.replayDecide r
    | none => s
  | .idle | .issued _ _ => s

/-- The unit's part in a happening: a waiting record first, or a selection (R112). -/
def State.replayAdvance (s : State) : State :=
  match s.replay with
  | .idle => s.replaySelect
  | .waiting _ => s.replayIssue
  | .issued _ _ => s

/-! ### Requests of the engine (R116, R119) -/

/-- The request of a copy slot: 16 words from the source bank, or the line buffer with every byte enabled to the
target bank (R116, R158). -/
def Copy.request (c : Copy) (d : Definition) : MRequest :=
  match c.phase with
  | .read => { kind := .read, addr := d.lineAddr c.source c.line, length := 16, enables := [], data := [], tag := 0x3F }
  | .write =>
    { kind := .write, addr := d.lineAddr c.target c.line, length := 16, enables := List.replicate 16 0xF
      data := c.buffer, tag := 0x3F }

/-- The M request behind a request of the engine. -/
def State.engineRequest (s : State) : EngineReq → Option MRequest
  | .replay => match s.replay with
    | .issued _ w => some w
    | .idle | .waiting _ => none
  | .slot j => match s.slots[j] with
    | .copying c => (s.region? c.region).map fun g => c.request g.defn
    | .free | .finishing _ _ => none

/-- The request is of a COPYING slot whose demanded flag is set (R119). -/
def State.demandedReq (s : State) : EngineReq → Bool
  | .replay => false
  | .slot j => match s.slots[j] with
    | .copying c => c.demanded
    | .free | .finishing _ _ => false

/-- The first ready request: those of demanded slots before every other, each the oldest-ready first (R119). -/
def State.firstReady (s : State) : Option EngineReq :=
  ((s.ready ++ s.readyNow).find? s.demandedReq).or (s.ready ++ s.readyNow).head?

/-- The engine presents a request when it presents none and one is ready; a presented one stays (R119). -/
def State.enginePresent (s : State) : State :=
  match s.presented with
  | some _ => s
  | none => { s with presented := s.firstReady }

/-- The happening ends: what became ready in it is younger than what was ready before it (log 15). -/
def State.commitReady (s : State) : State := { s with ready := s.ready ++ s.readyNow, readyNow := [] }

end Sys2Proof.Machine
end

