-- ==== Sys2Proof/Machine/Arbiter.lean ====
section
/-! DEFINITION. The memory arbiter: who presents, who is granted, what a grant changes (Chapter 9). -/

namespace Sys2Proof.Machine

/-- The three requester positions (R162). -/
inductive Position where
  | s | p | engine
deriving DecidableEq, Repr

/-- The choice of R163 among the positions that present, by the floor and the passed-over counts. -/
def chooseGrant (floor pPassed cPassed : Nat) (p engine s : Bool) : Option Position :=
  if p && floor - 1 ≤ pPassed then some .p
  else if engine && floor - 1 ≤ cPassed then some .engine
  else if s then some .s
  else if p then some .p
  else if engine then some .engine
  else none

/-- A passed-over count after a grant (R164). -/
def passedOver (old : Nat) (presents granted : Bool) : Nat :=
  if granted then 0 else if presents then old + 1 else 0

/-- The transaction a port presents: its oldest in ACCEPTED (R11). -/
def State.presents (s : State) (port : Port) : Option Tx := (s.tracker port).find? fun t => t.state == .accepted

/-- The M request of a transaction (R11, R158). -/
def Tx.request (t : Tx) : MRequest where
  kind := t.req.kind
  addr := t.phys.getD 0
  length := t.req.length
  enables := t.req.enables
  data := t.req.data
  tag := t.req.tag

/-- The request goes on the M request channel and its entry to the young end of the outstanding list (R158, R159). -/
def State.sendOut (s : State) (owner : Owner) (r : MRequest) : State :=
  { s with
    mRequest := some r
    outstanding := s.outstanding ++ [{ owner := owner, kind := r.kind, length := r.length }] }

/-- The grant of a port's transaction: it goes to ISSUED (R11). -/
def State.grantTx (s : State) (port : Port) (t : Tx) : State :=
  (s.setTracker port ((s.tracker port).map fun u =>
    if u.place = t.place ∧ u.state = .accepted then { u with state := .issued } else u)).sendOut (.port port t.place)
    t.request

/-- The grant of the engine's request: it leaves the ready requests, and the engine presents its next (R119). -/
def State.grantEngine (s : State) (e : EngineReq) : State :=
  match s.engineRequest e with
  | some r => ((s.withdraw (· == e)).sendOut (.engine e) r).enginePresent
  | none => s.withdraw (· == e)

/-- The grant goes to the chosen position. -/
def State.grantTo (s : State) : Position → State
  | .s => match s.presents .s with
    | some t => s.grantTx .s t
    | none => s
  | .p => match s.presents .p with
    | some t => s.grantTx .p t
    | none => s
  | .engine => match s.presented with
    | some e => s.grantEngine e
    | none => s

/-- The arbiter can grant: fewer than 8 outstanding requests, and none waits to be taken by the memory (R162). -/
def State.canGrant (s : State) : Bool :=
  s.outstanding.length < Config.outstandingPlaces && s.mRequest.isNone

/-- Whom the arbiter would grant now (R162, R163). -/
def State.grantee (s : State) : Option Position :=
  if s.canGrant then
    chooseGrant s.floor s.pPassed s.cPassed (s.presents .p).isSome s.presented.isSome (s.presents .s).isSome
  else none

/-- The passed-over counts after the grant of a position (R164). -/
def State.countPassed (s : State) (granted : Position) : State :=
  { s with
    pPassed := passedOver s.pPassed (s.presents .p).isSome (granted == .p)
    cPassed := passedOver s.cPassed s.presented.isSome (granted == .engine) }

/-- One grant, when one can be taken (R162 to R164). -/
def State.grant (s : State) : State :=
  match s.grantee with
  | some x => (s.countPassed x).grantTo x
  | none => s

/-- The arbiter reports the M port idle: nothing outstanding, nothing presented, nothing waiting for the memory
(R167). -/
def State.portIdle (s : State) : Bool :=
  s.outstanding.isEmpty && s.mRequest.isNone && s.presented.isNone && (s.presents .p).isNone &&
    (s.presents .s).isNone

end Sys2Proof.Machine
end

