-- ==== Sys2Proof/Machine/Health.lean ====
section
/-! DEFINITION. Memory error reports, the fence and the restart of a fenced region (Chapter 8). -/

namespace Sys2Proof.Machine

/-- What a fence changes in the region record (R147): health FENCED, score 256, MEMERR and FENCED set, publish
state HALTED with the seal-pending flag clear, lines in copy slots back to STALE. `n` records were discarded. -/
def Region.fenced (g : Region) (n : Nat) : Region :=
  ((({ g with health := .fenced, score := Config.fencedScore }.modCycle fun c =>
    { c.giveUpCopies with pub := .halted, sealPending := false }).setCond .memerr).setCond .fenced).recordDiscard n

/-- The fence of a region, one happening in every block (R147, R148): the record, the queue and the replay unit,
the demand list, the copy slots with their requests, and the held P transaction. -/
def State.fence (s : State) (k : SlotNo) : State :=
  ((((((s.modRegion k (·.fenced (s.unissuedRecords k))).dropRecords k).undemandRegion k).withdraw
    (s.slotReqOf k)).giveUpSlots k).answerHeldOf k .fenced)

/-- The region is a double region in ACTIVE or RETIRING state (R146). -/
def Region.fenceable (g : Region) : Bool := g.cycle.isSome && g.live

/-- The report itself: the score goes up, the health follows it, MEMERR is set (R143 to R145). A FENCED region keeps its score
(R144, R151). -/
def Region.reported (g : Region) : Region :=
  (if g.health = .fenced then g else g.withScore (chargedScore g.score)).setCond .memerr

/-- The report fences the region (R146). `third` says that it comes from the third attempt of a copy slot's line, which fences
whatever the score. -/
def Region.reportFences (g : Region) (third : Bool) : Bool :=
  g.health != .fenced && g.fenceable && (third || chargedScore g.score == Config.fencedScore)

/-- A memory error report to a region, and the fence it causes. The report is applied first: a score it brings to 96 or more sets
WARNED in the happening of the fence too (R143, R145); the fence's own step to 256 does not (log 9). -/
def State.reportError (s : State) (k : SlotNo) (third : Bool) : State :=
  match s.region? k with
  | none => s
  | some g =>
    let t := s.modRegion k Region.reported
    if g.reportFences third then t.fence k else t

/-- What REVIVE changes in the record (R67, R90, R152): score 0 and HEALTHY, every line STALE, and OPEN or DRAINING by
the draft bank's reader count. -/
def Region.revived (g : Region) : Region :=
  { g with health := .healthy, score := 0 }.modCycle fun c =>
    { c with
      lines := List.replicate c.lines.length .stale
      stale := c.lines.length
      dirty := 0
      pub := if c.readers c.draft = 0 then .opened else .draining
      sealPending := false }

end Sys2Proof.Machine
end

