-- ==== Sys2Proof/Machine/Publish.lean ====
section
/-! DEFINITION. The publish controller: seals, epochs, the publish, the drain, the offset change, and the return of
a retiring region to DEFINED (Chapters 2, 4, 7). -/

namespace Sys2Proof.Machine

/-! ### Seals (R70 to R76) -/

/-- The three readiness conditions of R72. -/
def Cycle.readyToSeal (c : Cycle) (queue : List QRecord) (k : SlotNo) : Bool :=
  c.stale == 0 && !hasTarget queue k c.draftGen && c.writers == 0

/-- A seal taken by a region (R72, R73). -/
def Cycle.takeSeal (c : Cycle) (queue : List QRecord) (k : SlotNo) : Cycle :=
  match c.pub with
  | .opened => { c with pub := if c.readyToSeal queue k then .isSealed else .sealWait }
  | .draining => { c with sealPending := true }
  | .sealWait | .isSealed | .halted => c

/-- The region is in the seal group: a double region only (R70). -/
def Definition.inGroups (d : Definition) (groups : Fin 4 → Bool) : Bool :=
  match d.double with
  | some p => groups p.group
  | none => false

/-- One seal for every ACTIVE double region of the groups (R70, R71). -/
def State.sealGroups (s : State) (groups : Fin 4 → Bool) : State :=
  s.mapRegions fun k g =>
    if g.life == .active && g.defn.inGroups groups then g.modCycle (·.takeSeal s.queue k) else g

/-- SEAL_WAIT to SEALED when the three readiness conditions hold (R76); a RETIRING region takes no report (R69). -/
def Region.sealedEntry (g : Region) (queue : List QRecord) (k : SlotNo) : Region :=
  if g.life = .active then
    g.modCycle fun c =>
      if c.pub = .sealWait ∧ c.readyToSeal queue k = true then { c with pub := .isSealed } else c
  else g

/-! ### Drains (R87) -/

/-- The end of a drain: OPEN, and a remembered seal is taken at that moment (R87). -/
def Cycle.endDrain (c : Cycle) (queue : List QRecord) (k : SlotNo) : Cycle :=
  if c.sealPending then { c with pub := .opened, sealPending := false }.takeSeal queue k
  else { c with pub := .opened }

/-- DRAINING to OPEN when the draft bank's reader count is 0 (R87); a RETIRING region takes no report (R69). -/
def Region.drainEnd (g : Region) (queue : List QRecord) (k : SlotNo) : Region :=
  if g.life = .active then
    g.modCycle fun c =>
      if c.pub = .draining ∧ c.readers c.draft = 0 then c.endDrain queue k else c
  else g

/-- The publish controller acts on the counts of every region in the happening that changed them (R47, R76, R87). -/
def State.controllers (s : State) : State :=
  s.mapRegions fun k g => (g.drainEnd s.queue k).sealedEntry s.queue k

/-! ### Epochs (R77 to R82, R134 to R136) -/

/-- An offset change (R134): the staged offset, or the offset advanced by the current step modulo B. -/
def Rot.change (x : Rot) (body : Nat) : Rot :=
  match x.staged with
  | some v => { x with offset := v, staged := none }
  | none => { x with offset := (x.offset + x.step) % body }

/-- The offset change of a region; one without a rotation part takes none (R134). -/
def Region.changeOffset (g : Region) : Region :=
  match g.defn.rotation with
  | some r => { g with rot := g.rot.map (·.change r.body) }
  | none => g

/-- What a publish changes in banks, line map and publish state (R78, R80). Every DIRTY line becomes STALE and is counted
so (R46); a SEALED region has stale count 0 (R75), so the stale count becomes the former dirty count
(log 21). -/
def Cycle.publish (c : Cycle) : Cycle :=
  let front := c.front.other
  { c with
    front := front
    gen := c.gen + 1
    lines := c.lines.map fun l => if l = .dirty then .stale else l
    stale := c.stale + c.dirty
    dirty := 0
    pub := if c.readers front.other = 0 then .opened else .draining }

/-- A publish, one happening (R78 to R80): banks and line map, rotation, fault score, PUBLISHED. -/
def Region.publish (g : Region) : Region :=
  (((g.modCycle Cycle.publish).changeOffset).withScore (g.score - 1)).setCond .published

/-- An epoch taken by an ACTIVE region (R77): a single region changes its offset (R135); a double region publishes
from SEALED (R78), misses the epoch in SEAL_WAIT (R81), and does nothing otherwise (R82). -/
def Region.epoch (g : Region) : Region :=
  match g.cycle with
  | none => g.changeOffset
  | some c => match c.pub with
    | .isSealed => g.publish
    | .sealWait => g.countMissed
    | .opened | .draining | .halted => g

/-- One epoch for every ACTIVE region of the source (R77). -/
def State.epoch (s : State) (source : Source) : State :=
  s.mapRegions fun _ g => if g.life == .active && g.defn.source == source then g.epoch else g

/-! ### The return to DEFINED (R40) -/

/-- A transaction of the region is in a tracker. -/
def inTracker (l : List Tx) (k : SlotNo) : Bool := l.any fun t => t.region == some k

/-- The slot holds a line of the region, or keeps its number in FINISHING (R40). -/
def CopySlot.keeps (c : CopySlot) (k : SlotNo) : Bool :=
  match c with
  | .free => false
  | .copying x => x.region == k
  | .finishing r _ => r == k

/-- The replay unit has an issued write of the region. -/
def Replay.isOf (r : Replay) (k : SlotNo) : Bool :=
  match r with
  | .issued x _ => x == k
  | .idle | .waiting _ => false

/-- The four conditions of R40 for the return to DEFINED. -/
def State.nothingLeft (s : State) (k : SlotNo) : Bool :=
  !inTracker s.pTracker k && !inTracker s.sTracker k && !s.slots.toList.any (·.keeps k) && !s.replay.isOf k

/-- The return to DEFINED (R40): the publish cycle items and the staged offset go, the rest is kept, RETIRED is
set. -/
def Region.returned (g : Region) : Region :=
  ({ g with life := .defined, cycle := none, rot := g.rot.map fun x => { x with staged := none } } : Region).setCond
    .retired

/-- A RETIRING region with nothing left in flight returns to DEFINED (R40). -/
def Region.returnIf (g : Region) (nothingLeft : Bool) : Region :=
  if g.life = .retiring ∧ nothingLeft = true then g.returned else g

/-- Every RETIRING region with nothing left in flight returns to DEFINED (R40). -/
def State.returns (s : State) : State := s.mapRegions fun k g => g.returnIf (s.nothingLeft k)

end Sys2Proof.Machine
end

