-- ==== Sys2Proof/Machine/Holds.lean ====
section
/-! DEFINITION. Holds of the P path: where a P read lands, how a hold is released and how it expires (Section 1.5,
R48 to R56, R98, R101). -/

namespace Sys2Proof.Machine

/-- The bank of a P read of a double region that no queued record holds back: cases 1, 3 and 4 of R48. -/
def Cycle.readBank (c : Cycle) (line : Nat) : Bank :=
  match c.pub with
  | .halted | .draining => c.front
  | .opened | .sealWait | .isSealed =>
    match c.line line with
    | .sync | .dirty => c.draft
    | .stale | .copying => c.front

/-- A held write released to the draft bank: the line becomes DIRTY, the write goes to ACCEPTED with its bank and
physical address and stays in the draft writer count (R55). It is released when the line is no longer STALE or
COPYING: that is at the end of its copy, in the same happening. -/
def State.releaseWrite (s : State) (t : Tx) (k : SlotNo) (g : Region) (c : Cycle) : State :=
  let line := g.defn.lineOf t.req.addr
  match c.line line with
  | .sync | .dirty =>
    (s.modCycle k (·.setLine line .dirty)).modHeld fun t =>
      { t with state := .accepted, bank := some c.draft, phys := some (g.defn.bankAddr c.draft t.req.addr) }
  | .stale | .copying => s

/-- A write held QUEUE takes a free place: its record is appended with the target of this moment, and it is
answered OKAY (R98, R14). -/
def State.releasePost (s : State) (t : Tx) (k : SlotNo) (g : Region) (c : Cycle) : State :=
  if s.queue.length < Config.queuePlaces then
    { s with queue := s.queue ++ [recordOf k g.defn c t.req] }.modHeld fun t => { t with state := .done .okay [] }
  else s

/-- A read held OVERLAP that overlaps no record any more is resolved anew by R48 and enters the reader count of its
bank (R50, R101). -/
def State.releaseRead (s : State) (t : Tx) (k : SlotNo) (g : Region) (c : Cycle) : State :=
  if s.overlapsQueue k g.defn t.req then s
  else
    let bank := c.readBank (g.defn.lineOf t.req.addr)
    (s.modCycle k (·.enter (.reader bank))).modHeld fun t =>
      { t with
        state := .accepted, bank := some bank, phys := some (g.defn.bankAddr bank t.req.addr)
        count := some (.reader bank) }

/-- The owner of the hold reason releases the held P transaction, when its reason has passed (R16). -/
def State.holdRelease (s : State) : State :=
  match s.heldTx with
  | none => s
  | some t => match t.region, t.state with
    | some k, .held reason _ _ => match s.region? k with
      | none => s
      | some g => match g.cycle with
        | none => s
        | some c => match reason with
          | .demand => s.releaseWrite t k g c
          | .copying => s.releaseWrite t k g c
          | .queue => s.releasePost t k g c
          | .overlap => s.releaseRead t k g c
    | _, _ => s

/-- The hold age of the held transaction goes up by one (R17). -/
def State.ageHold (s : State) : State :=
  s.modHeld fun t => match t.state with
    | .held reason age limit => { t with state := .held reason (age + 1) limit }
    | .accepted | .issued | .done _ _ => t

/-- The hold has reached its captured limit (R17). -/
def Tx.expired (t : Tx) : Bool :=
  match t.state with
  | .held _ age limit => limit ≤ age
  | .accepted | .issued | .done _ _ => false

/-- A hold whose age has reached its captured limit expires: TIMEOUT, counted in the region (R17). -/
def State.holdExpiry (s : State) : State :=
  match s.heldTx with
  | none => s
  | some t =>
    if t.expired then
      let s := s.modHeld fun t => { t with state := .done .timeout [] }
      match t.region with
      | some k => s.modRegion k Region.countTimeout
      | none => s
    else s

end Sys2Proof.Machine
end

