-- ==== Sys2Proof/Machine/Resolve.lean ====
section
/-! DEFINITION. Resolution at acceptance (Section 1.3): what a request meets, and the record it becomes. -/

namespace Sys2Proof.Machine

/-- What resolution decides (Tables 1-4 and 1-5). -/
inductive Resolution where
  /-- the burst crosses a line (R5) -/
  | boundary
  /-- a guarded bank, or the unmatched policy REFUSE (R7, R8) -/
  | unmatchedRefused
  /-- unmatched under PASS: issued unchanged (R8) -/
  | passed
  /-- an S write, or a write the writer filter rejects (R9, R10) -/
  | refused (k : SlotNo)
  /-- a P write to a fenced region (R10) -/
  | fenced (k : SlotNo)
  /-- a read, or a write of a single region, issued to a bank; `count` is the count it enters -/
  | issue (k : SlotNo) (bank : Bank) (phys : Nat) (count : Option CountEntry)
  /-- a direct draft write, whose line becomes DIRTY (R51, R52) -/
  | draftWrite (k : SlotNo) (bank : Bank) (phys : Nat) (line : Nat)
  /-- a direct draft write held DEMAND or COPYING (R53, R54) -/
  | holdWrite (k : SlotNo) (reason : HoldReason) (bank : Bank) (line : Nat)
  /-- a write to be posted while the queue is full (R98) -/
  | holdQueue (k : SlotNo)
  /-- a read that overlaps a queued record (R48) -/
  | holdOverlap (k : SlotNo)
  /-- a posted write with its record (R96) -/
  | posted (k : SlotNo) (record : QRecord)
deriving DecidableEq, Repr

/-- The ACTIVE region whose window holds the byte, with its slot (R6). -/
def State.matching (s : State) (byte : Nat) : Option (SlotNo × Region) :=
  (List.finRange 16).findSome? fun k =>
    match s.region? k with
    | some g => if g.life == .active && g.defn.inWindow byte then some (k, g) else none
    | none => none

/-- The byte lies in a bank of an ACTIVE or RETIRING region (R7). -/
def State.guarded (s : State) (byte : Nat) : Bool :=
  (List.finRange 16).any fun k =>
    match s.region? k with
    | some g => g.live && g.defn.inBanks byte
    | none => false

/-- S-port requests that match a region (R9, R34, R65). -/
def resolveScan (k : SlotNo) (g : Region) (req : Request) : Resolution :=
  match req.kind with
  | .write => .refused k
  | .read => match g.cycle with
    | none => .issue k .a (g.scanAddr .a req.addr) none
    | some c => .issue k c.front (g.scanAddr c.front req.addr) (some (.reader c.front))

/-- P reads of a double region (R48). -/
def State.resolveRead (s : State) (k : SlotNo) (g : Region) (c : Cycle) (req : Request) : Resolution :=
  if c.pub ≠ .halted ∧ s.overlapsQueue k g.defn req = true then .holdOverlap k
  else
    let bank := c.readBank (g.defn.lineOf req.addr)
    .issue k bank (g.defn.bankAddr bank req.addr) (some (.reader bank))

/-- A direct draft write by the state of its line (Table 3-4, R51 to R54). -/
def resolveDirect (k : SlotNo) (g : Region) (c : Cycle) (req : Request) : Resolution :=
  let line := g.defn.lineOf req.addr
  let draft : Resolution := .draftWrite k c.draft (g.defn.bankAddr c.draft req.addr) line
  match c.line line with
  | .sync | .dirty => draft
  | .stale => if req.fullLine then draft else .holdWrite k .demand c.draft line
  | .copying => .holdWrite k .copying c.draft line

/-- P writes of a double region that pass the writer filter (R51, R96, R98). -/
def State.resolveWrite (s : State) (k : SlotNo) (g : Region) (c : Cycle) (req : Request) : Resolution :=
  if c.pub = .halted then .fenced k
  else if c.pub = .opened ∧ s.hasRecord k = false then resolveDirect k g c req
  else if s.queue.length < Config.queuePlaces then .posted k (recordOf k g.defn c req)
  else .holdQueue k

/-- P-port requests that match a region (R10, R33). -/
def State.resolveProducer (s : State) (k : SlotNo) (g : Region) (req : Request) : Resolution :=
  match req.kind with
  | .read => match g.cycle with
    | none => .issue k .a (g.defn.bankAddr .a req.addr) none
    | some c => s.resolveRead k g c req
  | .write =>
    if g.defn.filterPasses req.tag then
      match g.cycle with
      | none => .issue k .a (g.defn.bankAddr .a req.addr) none
      | some c => s.resolveWrite k g c req
    else .refused k

/-- Resolution: the checks in the order of Table 1-4 (R5 to R10). -/
def State.resolve (s : State) (port : Port) (req : Request) : Resolution :=
  if req.crossesLine then .boundary
  else match s.matching req.addr with
    | some (k, g) => match port with
      | .s => resolveScan k g req
      | .p => s.resolveProducer k g req
    | none =>
      if s.guarded req.addr || s.refuseUnmatched then .unmatchedRefused else .passed

/-- A new record joins at the young end of the tracker (R2). -/
def State.addTx (s : State) (port : Port) (req : Request) (region : Option SlotNo) (bank : Option Bank)
    (phys : Option Nat) (state : TxState) (count : Option CountEntry) : State :=
  s.setTracker port (s.tracker port ++
    [{ place := freePlace (s.tracker port), req := req.recorded, region := region, bank := bank, phys := phys
       state := state, count := count }])

/-- Enters a count of a region, when there is one to enter. -/
def State.enterCount (s : State) (k : SlotNo) : Option CountEntry → State
  | some e => s.modCycle k (·.enter e)
  | none => s

/-- A hold begins with age 0 and the hold limit in force (R15). -/
def State.newHold (s : State) (reason : HoldReason) : TxState := .held reason 0 s.holdLimit

/-- What resolution makes of the request and of the state (R3, R5 to R10, R14, R15, R48 to R54, R96, R98). A
write held DEMAND or COPYING records its bank at the hold (log 19). -/
def State.accept (s : State) (port : Port) (req : Request) : Resolution → State
  | .boundary => s.addTx port req none none none (.done .boundary []) none
  | .unmatchedRefused =>
    (s.addTx port req none none none (.done .refused []) none).setDevCond .unmatchedRefused
  | .passed => s.addTx port req none none (some req.addr) .accepted none
  | .refused k =>
    (s.addTx port req (some k) none none (.done .refused []) none).modRegion k Region.countRefused
  | .fenced k => s.addTx port req (some k) none none (.done .fenced []) none
  | .issue k bank phys count =>
    (s.addTx port req (some k) (some bank) (some phys) .accepted count).enterCount k count
  | .draftWrite k bank phys line =>
    (((s.addTx port req (some k) (some bank) (some phys) .accepted (some .writer)).undemand k line).modCycle k
      fun c => (c.setLine line .dirty).enter .writer)
  | .holdWrite k reason bank line =>
    let s := (s.addTx port req (some k) (some bank) none (s.newHold reason) (some .writer)).modCycle k
      (·.enter .writer)
    if reason = .demand then s.joinDemand .pPath k line else s
  | .holdQueue k => s.addTx port req (some k) none none (s.newHold .queue) none
  | .holdOverlap k => s.addTx port req (some k) none none (s.newHold .overlap) none
  | .posted k record =>
    { s with queue := s.queue ++ [record] }.addTx port req (some k) none none (.done .okay []) none

/-- The request is answered at once and reaches nothing: no block has anything to do in the same happening. -/
def Resolution.answered : Resolution → Bool
  | .boundary | .unmatchedRefused | .refused _ | .fenced _ => true
  | .passed | .issue _ _ _ _ | .draftWrite _ _ _ _ | .holdWrite _ _ _ _ | .holdQueue _ | .holdOverlap _
  | .posted _ _ => false

end Sys2Proof.Machine
end

