-- ==== Sys2Proof/Machine/Settle.lean ====
section
/-! DEFINITION. What the blocks do in the happening that makes it possible (R47, R76, R87, R98, R101, R112, R162, R167):
the order is log 1. -/

namespace Sys2Proof.Machine

/-- The replay unit first, then the copy slots, then the engine's presentation (R112, R119). -/
def State.engineActs (s : State) : State := s.replayAdvance.copyTakes.enginePresent

/-- The end of a soft reset: the flag is cleared and RESET_DONE is set (R184). -/
def State.endSoftReset (s : State) : State := { s with softReset := false }.setDevCond .resetDone

/-- A soft reset ends when the arbiter reports the M port idle (R167, R184). -/
def State.softResetEnd (s : State) : State := if s.softReset && s.portIdle then s.endSoftReset else s

/-- The acts of the blocks before the grant: publish controllers, the held transaction, the engine. -/
def State.beforeGrant (s : State) : State := s.controllers.holdRelease.engineActs

/-- The rest of a happening: what is possible now is done now, in the order of log 1. The grant lifts bars and
releases a record waiting READ, so the engine acts again after it (R162). -/
def State.settle (s : State) : State :=
  s.beforeGrant.grant.engineActs.returns.softResetEnd.commitReady

/-- Runs `f` while RESETn is high; while it is low nothing is taken (R18, R70, R77, R168, R185). -/
def State.ifUp (s : State) (f : State → State) : State := if s.resetn then f s else s

end Sys2Proof.Machine
end

