-- ==== Sys2Proof/Machine/CycleCommands.lean ====
section
/-! DEFINITION. The commands of the publish cycle that come over no link: sideband edges, and the acts of the publish
controller by themselves (Chapters 2, 4, 7; log 2). -/

namespace Sys2Proof.Machine

/-- SEALED_ENTRY (R76) of the region in a slot. -/
def execSealedEntry (slot : SlotNo) (s : State) : Host.Outcome State Fault Refusal :=
  .next (s.ifUp fun s => s.modRegion slot (·.sealedEntry s.queue slot))

/-- DRAIN_END (R87) of the region in a slot. -/
def execDrainEnd (slot : SlotNo) (s : State) : Host.Outcome State Fault Refusal :=
  .next (s.ifUp fun s => s.modRegion slot (·.drainEnd s.queue slot))

/-- RETURN_TO_DEFINED (R40) of the region in a slot. -/
def execReturnToDefined (slot : SlotNo) (s : State) : Host.Outcome State Fault Refusal :=
  .next (s.ifUp fun s => s.modRegion slot (·.returnIf (s.nothingLeft slot)))

/-- SEAL_LINE_EDGE (R70): one seal for every ACTIVE double region of the line's group. -/
def execSealLineEdge (line : Fin 4) (s : State) : Host.Outcome State Fault Refusal :=
  .next (s.ifUp fun s => s.sealGroups (· == line))

/-- EPOCH_EDGE (R77): one epoch for every ACTIVE region of the source; what a publish makes possible follows in the
same happening (R112). -/
def execEpochEdge (source : Source) (s : State) : Host.Outcome State Fault Refusal :=
  .next (s.ifUp fun s => (s.epoch source).settle)

end Sys2Proof.Machine
end

