-- ==== Sys2Proof/Machine/EngineCommands.lean ====
section
/-! DEFINITION. The commands of the copy engine and the replay unit (Chapters 5, 6): each runs the one act by itself
(log 2). -/

namespace Sys2Proof.Machine

/-- COPY_TAKE (R112 to R115): one take. -/
def execCopyTake (s : State) : Host.Outcome State Fault Refusal :=
  .next (s.ifUp fun s => s.copyTake.commitReady)

/-- REPLAY_SELECT (R102, R103). -/
def execReplaySelect (s : State) : Host.Outcome State Fault Refusal :=
  .next (s.ifUp fun s => s.replaySelect.commitReady)

/-- REPLAY_ISSUE (R103, R104). -/
def execReplayIssue (s : State) : Host.Outcome State Fault Refusal :=
  .next (s.ifUp fun s => s.replayIssue.commitReady)

end Sys2Proof.Machine
end

