-- ==== Sys2Proof/Machine/LinkCommands.lean ====
section
/-! DEFINITION. The commands of the management link (Chapter 10, with Chapters 2, 4, 7 and 8 for their effects). -/

namespace Sys2Proof.Machine

/-! ### Results common to the commands (R172) -/

/-- A slot command: not taken while RESETn is low (R185), BUSY during a soft reset, BADARG for a slot byte out of
range, else `f` of the slot (R172). -/
def State.slotCommand (s : State) (params : Nat) (slot : Byte) (f : SlotNo → State) : State :=
  if s.resetn then
    if s.softReset then s.answer params .busy []
    else if h : slot.toNat < 16 then f ⟨slot.toNat, h⟩
    else s.answer params .badarg []
  else s

/-- A device command: not taken while RESETn is low, BUSY during a soft reset, else `t` (R172). -/
def State.deviceCommand (s : State) (params : Nat) (t : State) : State :=
  if s.resetn then if s.softReset then s.answer params .busy [] else t else s

/-- A slot command for a slot whose record satisfies `ok`; BADSTATE for any other (R21, R172). -/
def State.recordCommand (s : State) (params : Nat) (slot : Byte) (ok : Region → Bool)
    (f : SlotNo → Region → State) : State :=
  s.slotCommand params slot fun k =>
    match s.region? k with
    | some g => if ok g then f k g else s.answer params .badstate []
    | none => s.answer params .badstate []

/-! ### Bytes of a response -/

/-- One bit of a byte. -/
def bitAt (b : Bool) (i : Nat) : Byte := if b then 1#8 <<< i else 0

/-- A byte whose items stand in the bits of `used`: the other bits are free (log 8). -/
def withSpare (used item spare : Byte) : Byte := (item &&& used) ||| (spare &&& ~~~used)

/-- The `i`-th free byte of this happening (log 8). -/
def State.spare (s : State) (i : Nat) : Byte := (Config.spareBits s.freeCount).extractLsb' (8 * i) 8

/-- A number as one byte, and as two bytes, most significant first. -/
def byte (n : Nat) : Byte := BitVec.ofNat 8 n
def bytes2 (n : Nat) : List Byte := bytes16 (BitVec.ofNat 16 n)
def bytes4 (n : Nat) : List Byte := bytes32 (BitVec.ofNat 32 n)

/-- A reading command is answered; the model's counter of free values moves on. -/
def State.answerRead (s : State) (params : Nat) (data : List Byte) : State :=
  { s.answer params .ack data with freeCount := s.freeCount + 1 }

/-! ### DEFINE, READDEF, UNDEFINE (R22 to R26, R173) -/

/-- The record DEFINE creates (R22). -/
def newRegion (d : Definition) : Region where
  life := .defined
  defn := d
  health := .healthy
  score := 0
  missed := 0
  timeouts := 0
  refused := 0
  lastDiscard := 0
  conds := 0
  rot := d.rotation.map fun r => { offset := 0, staged := none, step := r.autoStep }
  cycle := none

/-- DEFINE (R22 to R24): a FREE slot only. -/
def execDefine (slot : Byte) (params : DefineParams) (s : State) : Host.Outcome State Fault Refusal :=
  .next (s.slotCommand 26 slot fun k =>
    match s.region? k with
    | some _ => s.answer 26 .badstate []
    | none =>
      if defineOk params then (s.putRegion k (some (newRegion (definitionOf params)))).answer 26 .ack []
      else s.answer 26 .badarg [])

/-- The 26 bytes of READDEF (Table 10-4, R173): absent items read 00h with their presence bit clear. -/
def readdefBytes (d : Definition) (spare : Nat → Byte) : List Byte :=
  let double := d.double.isSome
  let group : Byte := match d.double with
    | some p => byte p.group.val
    | none => 0
  let bankB := match d.double with
    | some p => p.bankB
    | none => 0
  let r : Rotation := d.rotation.getD { head := 0, body := 0, tail := 0, autoStep := 0 }
  [ withSpare 0x0F (bitAt double 0 ||| bitAt double 1 ||| bitAt double 2 ||| bitAt d.rotation.isSome 3) (spare 0)
  , withSpare 0x83 (bitAt (d.source == .b) 7 ||| group) (spare 1)
  , withSpare 0x3F (d.code.setWidth 8) (spare 2)
  , withSpare 0x3F (d.care.setWidth 8) (spare 3) ]
  ++ bytes4 d.window ++ bytes2 d.size ++ bytes4 d.bankA ++ bytes4 bankB
  ++ bytes2 r.head ++ bytes2 r.body ++ bytes2 r.tail ++ bytes2 r.autoStep

/-- READDEF (R26): any slot that is not FREE. -/
def execReaddef (slot : Byte) (s : State) : Host.Outcome State Fault Refusal :=
  .next (s.recordCommand 0 slot (fun _ => true) fun _ g => s.answerRead 0 (readdefBytes g.defn s.spare))

/-- UNDEFINE (R25): a DEFINED slot becomes FREE. -/
def execUndefine (slot : Byte) (s : State) : Host.Outcome State Fault Refusal :=
  .next (s.recordCommand 0 slot (·.life == .defined) fun k _ => (s.putRegion k none).answer 0 .ack [])

/-! ### ACTIVATE, RETIRE, REVIVE (R27 to R41, R152) -/

/-- Some other live region overlaps the definition (R27). -/
def State.clashes (s : State) (k : SlotNo) (d : Definition) : Bool :=
  (List.finRange 16).any fun j =>
    j != k && match s.region? j with
      | some g => g.live && d.overlaps g.defn
      | none => false

/-- A DOUBLE definition asks more entries of the tracking pool than are free (R28). -/
def State.poolShort (s : State) (d : Definition) : Bool :=
  d.double.isSome && Config.poolEntries < s.poolUsed + d.size

/-- The publish cycle items activation creates (R30): every line STALE, or SYNC when the banks match. -/
def newCycle (size : Nat) (matched : Bool) : Cycle where
  pub := .opened
  sealPending := false
  gen := 0
  front := .a
  stale := if matched then 0 else size
  dirty := 0
  readersA := 0
  readersB := 0
  writers := 0
  lines := List.replicate size (if matched then .sync else .stale)

/-- The record activation leaves (R29 to R31). -/
def Region.activated (g : Region) (matched : Bool) : Region where
  life := .active
  defn := g.defn
  health := .healthy
  score := 0
  missed := 0
  timeouts := 0
  refused := 0
  lastDiscard := 0
  conds := 0
  rot := g.rot.map fun x => { x with staged := none }
  cycle := g.defn.double.map fun _ => newCycle g.defn.size matched

/-- ACTIVATE and ACTIVATE MATCHED (R27 to R31): the overlap check, the pool check, then the activation; the engine takes
lines in the same happening (R112). -/
def State.activate (s : State) (slot : Byte) (matched : Bool) : State :=
  s.recordCommand 0 slot (·.life == .defined) fun k g =>
    if s.clashes k g.defn then s.answer 0 .overlap []
    else if s.poolShort g.defn then s.answer 0 .nospace []
    else ((s.putRegion k (some (g.activated matched))).answer 0 .ack []).settle

/-- ACTIVATE (R30): every line STALE. -/
def execActivate (slot : Byte) (s : State) : Host.Outcome State Fault Refusal := .next (s.activate slot false)

/-- ACTIVATE MATCHED (R31): every line SYNC. -/
def execActivateMatched (slot : Byte) (s : State) : Host.Outcome State Fault Refusal := .next (s.activate slot true)

/-- The slots that hold a line of a retired region set their ending mark (R125). -/
def State.markEnding (s : State) (k : SlotNo) : State :=
  { s with slots := Vector.ofFn fun j =>
      match s.slots[j] with
      | .copying c => if c.region = k then .copying { c with ending := true } else .copying c
      | .free => .free
      | .finishing r ph => .finishing r ph }

/-- The moment RETIRE is taken (R36 to R38). -/
def State.retireRegion (s : State) (k : SlotNo) : State :=
  ((((s.modRegion k fun g => { g with life := .retiring }.recordDiscard (s.unissuedRecords k)).dropRecords
    k).undemandRegion k).markEnding k).answerHeldOf k .refused

/-- RETIRE (R36): an ACTIVE region. -/
def execRetire (slot : Byte) (s : State) : Host.Outcome State Fault Refusal :=
  .next (s.recordCommand 0 slot (·.life == .active) fun k _ => ((s.retireRegion k).answer 0 .ack []).settle)

/-- The region is an ACTIVE double region in HALTED (R152, Table 10-3). -/
def Region.revivable (g : Region) : Bool :=
  g.life == .active && g.health == .fenced && match g.cycle with
    | some c => c.pub == .halted
    | none => false

/-- REVIVE (R152). -/
def execRevive (slot : Byte) (s : State) : Host.Outcome State Fault Refusal :=
  .next (s.recordCommand 0 slot Region.revivable fun k _ =>
    ((s.modRegion k Region.revived).answer 0 .ack []).settle)

/-! ### SEAL, SCROLL, STEP (R71, R137 to R139) -/

/-- SEAL (R71): one seal for each group whose bit is set; bits 4 to 7 give BADARG. -/
def execSealGroups (_slot : Byte) (mask : Byte) (s : State) : Host.Outcome State Fault Refusal :=
  .next (s.deviceCommand 1
    (if mask &&& 0xF0 = 0 then (s.sealGroups fun n => mask.getLsbD n.val).answer 1 .ack []
     else s.answer 1 .badarg []))

/-- The region's body lines when it has rotation; `value` must be below them (R137 to R139). -/
def Region.belowBody (g : Region) (value : Nat) : Bool :=
  match g.defn.rotation with
  | some r => value < r.body
  | none => false

/-- SCROLL stages an offset for an ACTIVE region (R137) and sets the current offset of a DEFINED one (R138). -/
def Region.scrolled (g : Region) (offset : Nat) : Region :=
  match g.life with
  | .active => { g with rot := g.rot.map fun x => { x with staged := some offset } }
  | .defined | .retiring => { g with rot := g.rot.map fun x => { x with offset := offset } }

/-- SCROLL (R137, R138). -/
def execScroll (slot : Byte) (offset : BitVec 16) (s : State) : Host.Outcome State Fault Refusal :=
  .next (s.recordCommand 2 slot (·.life != .retiring) fun k g =>
    if g.belowBody offset.toNat then (s.modRegion k (·.scrolled offset.toNat)).answer 2 .ack []
    else s.answer 2 .badarg [])

/-- STEP (R139). -/
def execSetStep (slot : Byte) (value : BitVec 16) (s : State) : Host.Outcome State Fault Refusal :=
  .next (s.recordCommand 2 slot (·.life != .retiring) fun k g =>
    if g.belowBody value.toNat then
      (s.modRegion k fun g => { g with rot := g.rot.map fun x => { x with step := value.toNat } }).answer 2 .ack []
    else s.answer 2 .badarg [])

/-! ### STATUS, PROBE, DEVSTATUS (R174 to R176) -/

/-- Bytes 11 to 16 of STATUS: the rotation items, 00h where absent. -/
def rotBytes : Option Rot → List Byte
  | some x => bytes2 x.offset ++ bytes2 (x.staged.getD 0) ++ bytes2 x.step
  | none => [0, 0, 0, 0, 0, 0]

/-- Bytes 17 to 27 of STATUS: the publish cycle items, every byte 00h where the slot holds none (R174). -/
def cycleBytes (spare : Byte) : Option Cycle → List Byte
  | some c =>
    [c.pub.code, withSpare 0x03 (bitAt c.sealPending 0 ||| bitAt (c.front == .b) 1) spare] ++ bytes16 c.gen ++
      bytes2 c.stale ++ bytes2 c.dirty ++ [byte c.readersA, byte c.readersB, byte c.writers]
  | none => List.replicate 11 0

/-- The 28 bytes of STATUS (Table 10-5, R174); a FREE slot reports its slot state and nothing else. -/
def statusBytes (slot : Option Region) (spare : Nat → Byte) : List Byte :=
  match slot with
  | none => List.replicate 28 0
  | some g =>
    [ g.life.code
    , withSpare 0x1F (bitAt g.defn.double.isSome 0 ||| bitAt true 1 ||| bitAt g.rot.isSome 2 |||
        bitAt (g.rot.any fun x => x.staged.isSome) 3 ||| bitAt g.cycle.isSome 4) (spare 0)
    , g.health.code ] ++ bytes2 g.score ++ [byte g.missed, byte g.timeouts, byte g.refused, byte g.lastDiscard] ++
      bytes16 g.conds ++ rotBytes g.rot ++ cycleBytes (spare 1) g.cycle

/-- STATUS (R174): every slot state. -/
def execStatus (slot : Byte) (s : State) : Host.Outcome State Fault Refusal :=
  .next (s.slotCommand 0 slot fun k => s.answerRead 0 (statusBytes (s.region? k) s.spare))

/-- The copy slot that holds a line, with what it holds (R66). -/
def State.slotOn (s : State) (k : SlotNo) (line : Nat) : Option (Fin 4 × Copy) :=
  (List.finRange 4).findSome? fun j => match s.slots[j] with
    | .copying c => if c.region = k ∧ c.line = line then some (j, c) else none
    | .free | .finishing _ _ => none

/-- Byte 1 of PROBE (Table 10-6): the slot with its phase, attempt and demanded flag, or no slot. -/
def probeSlotByte (held : Option (Fin 4 × Copy)) (spare : Byte) : Byte :=
  match held with
  | some (j, c) =>
    withSpare 0xBF (bitAt true 7 ||| byte j.val ||| bitAt (c.phase == .write) 2 ||| (byte (c.attempt % 4) <<< 3) |||
      bitAt c.demanded 5) spare
  | none => withSpare 0x80 0 spare

/-- Byte 2 of PROBE (Table 10-6): whose entry for the line is in the demand list. -/
def State.probeDemandByte (s : State) (k : SlotNo) (line : Nat) : Byte :=
  match s.demand.find? fun e => e.region == k && e.line == line with
  | some e => match e.requester with
    | .pPath => 0x01
    | .replay => 0x02
  | none => 0x00

/-- The three bytes of PROBE (Table 10-6, R66, R175). -/
def State.probeBytes (s : State) (k : SlotNo) (state : LineState) (line : Nat) : List Byte :=
  [state.code, probeSlotByte (s.slotOn k line) (s.spare 0), s.probeDemandByte k line]

/-- PROBE (R66, R175): BADSTATE for a slot with no line map, BADARG for an index past the region. -/
def execProbe (slot : Byte) (line : BitVec 16) (s : State) : Host.Outcome State Fault Refusal :=
  .next (s.recordCommand 2 slot (·.cycle.isSome) fun k g =>
    match g.cycle with
    | some c => match c.lines[line.toNat]? with
      | some state => s.answerRead 2 (s.probeBytes k state line.toNat)
      | none => s.answer 2 .badarg []
    | none => s.answer 2 .badstate [])

/-- Copy slots busy: COPYING and FINISHING (R127, R176). -/
def State.busySlots (s : State) : Nat := s.slots.toList.countP (· != .free)

/-- The 13 bytes of DEVSTATUS (Table 10-7, R176). -/
def State.devstatusBytes (s : State) : List Byte :=
  [withSpare 0x03 (bitAt s.softReset 0 ||| bitAt s.attn 1) (s.spare 0)] ++ bytes2 s.poolUsed ++
    [byte s.queue.length, byte s.busySlots] ++ bytes16 s.devConds ++ bytes2 s.holdLimit ++ [byte s.floor] ++
    [if s.refuseUnmatched then 0x01 else 0x00] ++ bytes16 s.attnMask

/-- DEVSTATUS (R176): taken during a soft reset too. -/
def execDevstatus (_slot : Byte) (s : State) : Host.Outcome State Fault Refusal :=
  .next (if s.resetn then s.answerRead 0 s.devstatusBytes else s)

/-! ### CLEAR, POLICY (R178, R181) -/

/-- Options bit 0 asks for the counters (R178). -/
def asksCounters (options : Byte) : Bool := options.getLsbD 0

/-- What a region CLEAR makes of the record (R145, R178): a HALTED region keeps its score and health. -/
def Region.cleared (g : Region) (mask : Kinds) (counters : Bool) : Region :=
  let g := { g with conds := g.conds &&& ~~~mask }
  if counters then
    let g := { g with missed := 0, timeouts := 0, refused := 0, lastDiscard := 0 }
    if g.cycle.any fun c => c.pub == .halted then g else { g with score := 0, health := .healthy }
  else g

/-- CLEAR of the device set (R178): device kinds only, and no counters. -/
def State.clearDevice (s : State) (mask : Kinds) (options : Byte) : State :=
  if namesOnly mask deviceKinds && options == 0 then
    { s with devConds := s.devConds &&& ~~~mask }.answer 3 .ack []
  else s.answer 3 .badarg []

/-- CLEAR (R178): FFh names the device, 00h to 0Fh a slot that is not FREE. -/
def execClear (slot : Byte) (mask : Kinds) (options : Byte) (s : State) : Host.Outcome State Fault Refusal :=
  .next (
    if slot = 0xFF then s.deviceCommand 3 (s.clearDevice mask options)
    else s.recordCommand 3 slot (fun _ => true) fun k _ =>
      if namesOnly mask regionKinds && options &&& 0xFE == 0 then
        (s.modRegion k (·.cleared mask (asksCounters options))).answer 3 .ack []
      else s.answer 3 .badarg [])

/-- The checks of POLICY (R181). -/
def policyOk (holdLimit : BitVec 16) (floor unmatched : Byte) (mask : Kinds) : Bool :=
  holdLimit != 0 && (2 ≤ floor.toNat && floor.toNat ≤ 16) && (unmatched == 0x00 || unmatched == 0x01) &&
    namesOnly mask allKinds

/-- The four values of POLICY take effect together; a passed-over count above the new floor less one is made equal to
it (R165, R181). -/
def State.setPolicy (s : State) (holdLimit floor : Nat) (refuse : Bool) (mask : Kinds) : State :=
  { s with
    holdLimit := holdLimit, floor := floor, refuseUnmatched := refuse, attnMask := mask
    pPassed := min s.pPassed (floor - 1), cPassed := min s.cPassed (floor - 1) }

/-- POLICY (R181). -/
def execPolicy (_slot : Byte) (holdLimit : BitVec 16) (floor unmatched : Byte) (mask : Kinds) (s : State) :
    Host.Outcome State Fault Refusal :=
  .next (s.deviceCommand 6
    (if policyOk holdLimit floor unmatched mask then
      (s.setPolicy holdLimit.toNat floor.toNat (unmatched == 0x01) mask).answer 6 .ack []
    else s.answer 6 .badarg []))

/-! ### Frames that are no command (R171, R172) -/

/-- A command byte not in Table 10-2 is answered BADCMD and changes nothing else; even during a soft reset (R172). A code
of the table is no unknown command (log 18). -/
def execUnknownCommand (code _slot : Byte) (s : State) : Host.Outcome State Fault Refusal :=
  .next (if s.resetn && (paramCount code).isNone then s.answer 0 .badcmd [] else s)

/-- A frame that ends before its command is taken sets LINK_ERROR (R171); its start ended what the frame before left to
be clocked out (R169). A frame with no bit clocked sets nothing. -/
def execTruncatedFrame (bits : List Bool) (s : State) : Host.Outcome State Fault Refusal :=
  .next (
    if s.resetn then
      if truncated bits then { s with reply := none }.setDevCond .linkError
      else if bits = [] then { s with reply := none }
      else s
    else s)

end Sys2Proof.Machine
end

