-- ==== Sys2Proof/Machine/MemoryCommands.lean ====
section
/-! DEFINITION. The commands of the memory port (Chapter 9) and what the owners do with an M response. -/

namespace Sys2Proof.Machine

/-- The status an M response gives its transaction (R13). -/
def portStatus : MStatus → Status
  | .okay => .okay
  | .error => .memerr

/-- The read data an M response leaves in a transaction: as many words as the length, for a READ answered OKAY
(R1, R13, R160). -/
def readData (req : Request) (status : MStatus) (data : List Word) : List Word :=
  match req.kind, status with
  | .read, .okay => data.take req.length
  | .read, .error => []
  | .write, _ => []

/-- The transaction in `place` is ISSUED. -/
def Tx.issuedIn (t : Tx) (place : Nat) : Bool := t.place == place && t.state == .issued

/-- An ERROR of an upstream access: a report to its region, or UNMATCHED_MEMERR for a passed one (R13, R143). -/
def State.upstreamError (s : State) (t : Tx) : State :=
  match t.region with
  | some k => s.reportError k false
  | none => s.setDevCond .unmatchedMemerr

/-- The response of an upstream transaction: DONE with OKAY or MEMERR (R13). A transaction that was answered RESET
is no longer ISSUED: the response is discarded (R20). -/
def State.portResponse (s : State) (port : Port) (place : Nat) (status : MStatus) (data : List Word) : State :=
  match (s.tracker port).find? (·.issuedIn place) with
  | none => s
  | some t =>
    let s := s.setTracker port ((s.tracker port).map fun u =>
      if u.issuedIn place then { u with state := .done (portStatus status) (readData u.req status data) } else u)
    match status with
    | .okay => s
    | .error => s.upstreamError t

/-- A slot with the ending mark: the result is ignored, the line returns to STALE and the slot is freed (R38, R125). -/
def State.endRetired (s : State) (j : Fin 4) (c : Copy) : State :=
  (s.setSlot j .free).modCycle c.region (·.setLine c.line .stale)

/-- The end of a copy: the line becomes SYNC and the slot FREE (R60, R117). A write held or a record waiting on the line
makes it DIRTY in the same happening (R55, R58): see `State.holdRelease` and `State.replayIssue`. -/
def State.endCopy (s : State) (j : Fin 4) (c : Copy) : State :=
  (s.setSlot j .free).modCycle c.region (·.setLine c.line .sync)

/-- A copy's read has returned OKAY: the words are in the line buffer and the write becomes ready (R116). -/
def State.copyWrite (s : State) (j : Fin 4) (c : Copy) (data : List Word) : State :=
  (s.setSlot j (.copying { c with phase := .write, buffer := data.take 16 })).makeReady (.slot j)

/-- A slot retries its line with a new read (R122). -/
def State.copyRetry (s : State) (j : Fin 4) (c : Copy) : State :=
  (s.setSlot j (.copying { c with attempt := c.attempt + 1, phase := .read, buffer := [] })).makeReady (.slot j)

/-- An ERROR of a copy's read or write: a report to the region; then a retry, unless the report fenced the region and
so took the slot (R122, R123). -/
def State.copyError (s : State) (j : Fin 4) (c : Copy) : State :=
  let t := s.reportError c.region (Config.copyAttempts ≤ c.attempt)
  match t.slots[j] with
  | .copying _ => t.copyRetry j c
  | .free | .finishing _ _ => t

/-- The response of a copy slot's operation (R116, R117, R122 to R125). -/
def State.slotResponse (s : State) (j : Fin 4) (status : MStatus) (data : List Word) : State :=
  match s.slots[j] with
  | .free => s
  | .finishing _ _ => s.setSlot j .free
  | .copying c =>
    if c.ending then s.endRetired j c
    else match status, c.phase with
      | .okay, .read => s.copyWrite j c data
      | .okay, .write => s.endCopy j c
      | .error, _ => s.copyError j c

/-- The response of an issued replay write: the record leaves the queue and the unit becomes IDLE; an ERROR is reported
to the region (R105). The result of a record that a retire, a fence or a soft reset removed is ignored (R38, R108,
R109). -/
def State.replayResponse (s : State) (status : MStatus) : State :=
  match s.replay with
  | .idle => s
  | .waiting _ => s
  | .issued k _ =>
    let t := { s with replay := .idle, queue := s.queue.filter fun r => !r.selected }
    if s.queue.any QRecord.selected then
      match status with
      | .okay => t
      | .error => t.reportError k false
    else t

/-- The owner of an outstanding request acts on its response (R160). -/
def State.handOver (s : State) (o : Owner) (status : MStatus) (data : List Word) : State :=
  match o with
  | .port port place => s.portResponse port place status data
  | .engine (.slot j) => s.slotResponse j status data
  | .engine .replay => s.replayResponse status

/-- An M response is matched to the oldest outstanding entry, which is removed and handed to its owner; with none
outstanding the response is not taken (R160, log 3). -/
def State.mResponse (s : State) (status : MStatus) (data : List Word) : State :=
  match s.outstanding with
  | [] => s
  | o :: rest => ({ s with outstanding := rest }.handOver o.owner status data).settle

/-- The memory takes the granted request (R158). -/
def State.memoryTakes (s : State) : State :=
  match s.mRequest with
  | some _ => { s with mRequest := none }.settle
  | none => s

/-- ARBITER_GRANT (R162 to R164). -/
def execArbiterGrant (s : State) : Host.Outcome State Fault Refusal := .next (s.ifUp State.grant)

/-- MEMORY_TAKES_REQUEST (R158). -/
def execMemoryTakesRequest (s : State) : Host.Outcome State Fault Refusal := .next (s.ifUp State.memoryTakes)

/-- M_RESPONSE (R160); its data is taken as it comes (log 12). -/
def execMResponse (status : MStatus) (data : List Word) (s : State) : Host.Outcome State Fault Refusal :=
  .next (s.ifUp fun s => s.mResponse status data)

end Sys2Proof.Machine
end

