-- ==== Sys2Proof/Machine/PortCommands.lean ====
section
/-! DEFINITION. The commands of the upstream ports and of the time base (Chapter 1). -/

namespace Sys2Proof.Machine

/-- A port is offered a request: it accepts and resolves it, or, when it cannot accept, records nothing of it
(R2, log 3). -/
def State.requestAcceptance (s : State) (port : Port) (req : Request) : State :=
  if s.accepts port then
    let r := s.resolve port req
    if r.answered then s.accept port req r else (s.accept port req r).settle
  else s

/-- A transaction leaves the count it entered (R4). -/
def State.leaveCount (s : State) (t : Tx) : State :=
  match t.region, t.count with
  | some k, some e => s.modCycle k (·.leave e)
  | _, _ => s

/-- The oldest transaction of a port completes: its record is removed and the count it entered goes down (R4). -/
def State.complete (s : State) (port : Port) : State :=
  match s.tracker port with
  | t :: rest => (s.setTracker port rest).leaveCount t
  | [] => s

/-- The master takes the response its port offers; where none is offered nothing is taken (R4, log 3). -/
def State.responseTaken (s : State) (port : Port) : State :=
  match s.offered port with
  | some _ => (s.complete port).settle
  | none => s

/-- REQUEST_ACCEPTANCE (R2, R5 to R10). -/
def execRequestAcceptance (port : Port) (req : Request) (s : State) : Host.Outcome State Fault Refusal :=
  .next (s.requestAcceptance port req)

/-- RESPONSE_TAKEN (R4). -/
def execResponseTaken (port : Port) (s : State) : Host.Outcome State Fault Refusal :=
  .next (s.responseTaken port)

/-- HOLD_RELEASE (R16): the held P transaction, when its reason has passed. -/
def execHoldRelease (s : State) : Host.Outcome State Fault Refusal :=
  .next (s.ifUp State.holdRelease)

/-- TIME_BASE_ADVANCE (R17): one microsecond; a hold that reaches its limit expires at this advance (log 7). -/
def execTimeBaseAdvance (s : State) : Host.Outcome State Fault Refusal :=
  .next (s.ifUp fun s => { s with timeBase := s.timeBase + 1 }.ageHold.holdExpiry)

/-- HOLD_EXPIRY (R17). -/
def execHoldExpiry (s : State) : Host.Outcome State Fault Refusal :=
  .next (s.ifUp State.holdExpiry)

end Sys2Proof.Machine
end

