-- ==== Sys2Proof/Machine/ResetCommands.lean ====
section
/-! DEFINITION. The soft reset and the hard reset (Sections 1.6, 2.7, 5.5, 6.8, 9.5, 10.6, 10.7). -/

namespace Sys2Proof.Machine

/-- A transaction answered RESET (R20). The counts of its region are removed in the same happening (R43), so it leaves
none (log 10). -/
def Tx.answeredReset (t : Tx) : Tx := { t with state := .done .reset [], count := none }

/-- What a soft reset leaves of a record (R43): DEFINED, HEALTHY with score 0, counters and discard count 0, no
condition, offset 0 with none staged and the step kept, no publish cycle. -/
def Region.softReset (g : Region) : Region where
  life := .defined
  defn := g.defn
  health := .healthy
  score := 0
  missed := 0
  timeouts := 0
  refused := 0
  lastDiscard := 0
  conds := 0
  rot := g.rot.map fun x => { x with offset := 0, staged := none }
  cycle := none

/-- The replay unit at a soft reset: WAITING becomes IDLE, an issued write stays (R109). -/
def Replay.softReset : Replay → Replay
  | .idle => .idle
  | .waiting _ => .idle
  | .issued k w => .issued k w

/-- The moment a soft reset is taken (R20, R43, R109, R128, R166, R182). -/
def State.beginSoftReset (s : State) : State :=
  { s with
    softReset := true
    pTracker := s.pTracker.map Tx.answeredReset
    sTracker := s.sTracker.map Tx.answeredReset
    table := Vector.ofFn fun k => (s.table[k]).map Region.softReset
    queue := []
    replay := s.replay.softReset
    slots := Vector.ofFn fun j => s.givenUp j
    demand := []
    rrPtr := 15
    ready := s.ready.filter (· == .replay)
    readyNow := s.readyNow.filter (· == .replay)
    presented := if s.presented == some .replay then some .replay else none
    pPassed := 0
    cPassed := 0
    devConds := 0 }

/-- SOFTRESET (R182): where the port is idle already, the reset ends in the same happening (R184). -/
def execSoftreset (_slot : Byte) (s : State) : Host.Outcome State Fault Refusal :=
  .next (s.deviceCommand 0 (s.beginSoftReset.answer 0 .ack []).settle)

/-- SOFT_RESET_END (R184). -/
def execSoftResetEnd (s : State) : Host.Outcome State Fault Refusal := .next (s.ifUp State.softResetEnd)

/-- What a hard reset leaves, with RESETn at a level (R18, R42, R109, R129, R168, R185): the state after reset, but for
the model's own queue and counter. -/
def State.hardReset (s : State) (resetn : Bool) : State :=
  { State.reset with pending := s.pending, freeCount := s.freeCount, resetn := resetn }

/-- HARD_RESET (R18): RESETn goes low (log 5). -/
def execHardReset (s : State) : Host.Outcome State Fault Refusal := .next (s.hardReset false)

/-- HARD_RESET_RELEASE (R168): RESETn goes high, from low. -/
def execHardResetRelease (s : State) : Host.Outcome State Fault Refusal :=
  .next (if s.resetn then s else s.hardReset true)

end Sys2Proof.Machine
end

