-- ==== Sys2Proof/Machine/Dispatch.lean ====
section
/-! DEFINITION. One arm for each command. -/

namespace Sys2Proof.Machine

/-- The effect of a command on everything but the queue. -/
def exec (i : Instr) (s : State) : Host.Outcome State Fault Refusal :=
  match i with
  | .requestAcceptance port req => Sys2Proof.Machine.execRequestAcceptance port req s
  | .responseTaken port => Sys2Proof.Machine.execResponseTaken port s
  | .holdRelease => Sys2Proof.Machine.execHoldRelease s
  | .timeBaseAdvance => Sys2Proof.Machine.execTimeBaseAdvance s
  | .holdExpiry => Sys2Proof.Machine.execHoldExpiry s
  | .arbiterGrant => Sys2Proof.Machine.execArbiterGrant s
  | .memoryTakesRequest => Sys2Proof.Machine.execMemoryTakesRequest s
  | .mResponse status data => Sys2Proof.Machine.execMResponse status data s
  | .copyTake => Sys2Proof.Machine.execCopyTake s
  | .replaySelect => Sys2Proof.Machine.execReplaySelect s
  | .replayIssue => Sys2Proof.Machine.execReplayIssue s
  | .sealedEntry slot => Sys2Proof.Machine.execSealedEntry slot s
  | .drainEnd slot => Sys2Proof.Machine.execDrainEnd slot s
  | .returnToDefined slot => Sys2Proof.Machine.execReturnToDefined slot s
  | .sealLineEdge line => Sys2Proof.Machine.execSealLineEdge line s
  | .epochEdge source => Sys2Proof.Machine.execEpochEdge source s
  | .define slot params => Sys2Proof.Machine.execDefine slot params s
  | .readdef slot => Sys2Proof.Machine.execReaddef slot s
  | .undefine slot => Sys2Proof.Machine.execUndefine slot s
  | .activate slot => Sys2Proof.Machine.execActivate slot s
  | .activateMatched slot => Sys2Proof.Machine.execActivateMatched slot s
  | .retire slot => Sys2Proof.Machine.execRetire slot s
  | .revive slot => Sys2Proof.Machine.execRevive slot s
  | .sealGroups slot mask => Sys2Proof.Machine.execSealGroups slot mask s
  | .scroll slot offset => Sys2Proof.Machine.execScroll slot offset s
  | .setStep slot value => Sys2Proof.Machine.execSetStep slot value s
  | .status slot => Sys2Proof.Machine.execStatus slot s
  | .probe slot line => Sys2Proof.Machine.execProbe slot line s
  | .clear slot mask options => Sys2Proof.Machine.execClear slot mask options s
  | .devstatus slot => Sys2Proof.Machine.execDevstatus slot s
  | .policy slot holdLimit floor unmatched mask => Sys2Proof.Machine.execPolicy slot holdLimit floor unmatched mask s
  | .softreset slot => Sys2Proof.Machine.execSoftreset slot s
  | .unknownCommand code slot => Sys2Proof.Machine.execUnknownCommand code slot s
  | .truncatedFrame bits => Sys2Proof.Machine.execTruncatedFrame bits s
  | .softResetEnd => Sys2Proof.Machine.execSoftResetEnd s
  | .hardReset => Sys2Proof.Machine.execHardReset s
  | .hardResetRelease => Sys2Proof.Machine.execHardResetRelease s

end Sys2Proof.Machine
end

