-- ==== Sys2Proof/Safety.lean ====
section
/-! DEFINITION. What counts as a safe run, and the words the claims are stated in: plain arithmetic and plain
quantifiers over the state, beside the operations of Machine/. -/

namespace Sys2Proof.Machine

/-! ### The link -/

/-- The link takes commands and answers them: RESETn is high and no soft reset is in progress. -/
abbrev State.linkUp (s : State) : Prop := s.resetn = true ∧ s.softReset = false

/-- An answer without response data: `lead` bytes of 00h, then the result (R169, R170). -/
def answerOf (lead : Nat) (result : Result) : Option Reply := some { lead := lead, result := result, data := [] }

/-- An answer ACK with response data. -/
def dataOf (lead : Nat) (data : List Byte) : Option Reply := some { lead := lead, result := .ack, data := data }

/-- The slot byte of a slot command; CLEAR with FFh names the device (Table 10-2). -/
def slotByte : Instr → Option Byte
  | .define b _ => some b
  | .readdef b => some b
  | .undefine b => some b
  | .activate b => some b
  | .activateMatched b => some b
  | .retire b => some b
  | .revive b => some b
  | .scroll b _ => some b
  | .setStep b _ => some b
  | .status b => some b
  | .probe b _ => some b
  | .clear b _ _ => if b = 0xFF then none else some b
  | _ => none

/-- Table 10-3: the slot states in which a slot command is available. -/
abbrev availableIn (c : Instr) (slot : Option Region) : Prop :=
  match c with
  | .define _ _ => slot = none
  | .readdef _ => slot ≠ none
  | .undefine _ => ∃ g ∈ slot, g.life = .defined
  | .activate _ => ∃ g ∈ slot, g.life = .defined
  | .activateMatched _ => ∃ g ∈ slot, g.life = .defined
  | .retire _ => ∃ g ∈ slot, g.life = .active
  | .revive _ => ∃ g ∈ slot, g.life = .active ∧ g.health = .fenced ∧ ∃ c ∈ g.cycle, c.pub = .halted
  | .scroll _ _ => ∃ g ∈ slot, g.life ≠ .retiring
  | .setStep _ _ => ∃ g ∈ slot, g.life ≠ .retiring
  | .probe _ _ => ∃ g ∈ slot, g.cycle ≠ none
  | .clear _ _ _ => slot ≠ none
  | _ => True

/-- The checks of R23 and R24, in arithmetic over the parameters of DEFINE. -/
abbrev ValidDefinition (p : DefineParams) : Prop :=
  (p.flags.getLsbD 1 = p.flags.getLsbD 0 ∧ p.flags.getLsbD 2 = p.flags.getLsbD 0) ∧
  (1 ≤ p.size.toNat ∧ p.size.toNat ≤ 4096) ∧
  (p.window.toNat % 64 = 0 ∧ p.window.toNat + 64 * p.size.toNat ≤ 0x10000000) ∧
  (p.bankA.toNat % 64 = 0 ∧ p.bankA.toNat + 64 * p.size.toNat ≤ 0x10000000) ∧
  (p.flags.getLsbD 0 = true →
    p.bankB.toNat % 64 = 0 ∧ p.bankB.toNat + 64 * p.size.toNat ≤ 0x10000000 ∧
    (p.bankA.toNat + 64 * p.size.toNat ≤ p.bankB.toNat ∨ p.bankB.toNat + 64 * p.size.toNat ≤ p.bankA.toNat)) ∧
  (p.flags.getLsbD 3 = true →
    1 ≤ p.body.toNat ∧ p.head.toNat + p.body.toNat + p.tail.toNat = p.size.toNat ∧
    p.autoStep.toNat < p.body.toNat)

/-- The definition part holds the values of the parameters (R22, Table 10-4). -/
abbrev Definition.holds (d : Definition) (p : DefineParams) : Prop :=
  d.window = p.window.toNat ∧ d.size = p.size.toNat ∧ d.bankA = p.bankA.toNat ∧
  d.source = (if p.sourceGroup.getLsbD 7 then .b else .a) ∧
  d.code = p.code.extractLsb' 0 6 ∧ d.care = p.care.extractLsb' 0 6 ∧
  d.double = (if p.flags.getLsbD 0 then
    some { bankB := p.bankB.toNat, group := (p.sourceGroup.extractLsb' 0 2).toFin } else none) ∧
  d.rotation = (if p.flags.getLsbD 3 then
    some { head := p.head.toNat, body := p.body.toNat, tail := p.tail.toNat, autoStep := p.autoStep.toNat } else none)

/-- Two ranges of `n` and `m` lines at these bases share a line. -/
abbrev sharesLine (base n base' m : Nat) : Prop := base < base' + 64 * m ∧ base' < base + 64 * n

/-- Some range of `d` shares a line with some range of another live region (R27). -/
abbrev State.clashing (s : State) (k : SlotNo) (d : Definition) : Prop :=
  ∃ j : SlotNo, j ≠ k ∧ ∃ g ∈ s.region? j, g.life ≠ .defined ∧
    ∃ base ∈ d.bases, ∃ base' ∈ g.defn.bases, sharesLine base d.size base' g.defn.size

/-- No block holds work of the region: what R30 and R67 say of a region at its activation and at its REVIVE. -/
abbrev State.noWorkOf (s : State) (k : SlotNo) : Prop :=
  (∀ r ∈ s.queue, r.region ≠ k) ∧ (∀ t ∈ s.pTracker, t.isHeld = true → t.region ≠ some k) ∧
  (∀ e ∈ s.demand, e.region ≠ k) ∧ ∀ j : Fin 4, (s.slots[j]).holds k = false

/-- What stands after a hard reset: every item of R18, R42, R109, R129, R168 and R185 but the level of RESETn; the model's own
queue and counter are those of `s`. -/
abbrev afterHardReset (s t : State) : Prop :=
  t.pending = s.pending ∧ t.freeCount = s.freeCount ∧ t.timeBase = 0 ∧ t.pTracker = [] ∧ t.sTracker = [] ∧
  (∀ k, t.region? k = none) ∧ t.queue = [] ∧ t.replay = .idle ∧ (∀ j : Fin 4, t.slots[j] = .free) ∧ t.demand = [] ∧
  t.rrPtr = 15 ∧ t.ready = [] ∧ t.readyNow = [] ∧ t.presented = none ∧ t.outstanding = [] ∧ t.mRequest = none ∧
  t.pPassed = 0 ∧ t.cPassed = 0 ∧ t.devConds = 0 ∧ t.holdLimit = 2000 ∧ t.floor = 8 ∧ t.refuseUnmatched = false ∧
  t.attnMask = 0 ∧ t.softReset = false ∧ t.reply = none

/-- The M port is idle: nothing outstanding, nothing waits for the memory, nobody presents (R167). -/
abbrev State.mPortIdle (s : State) : Prop :=
  s.outstanding = [] ∧ s.mRequest = none ∧ s.presented = none ∧
  (∀ t ∈ s.pTracker, t.state ≠ .accepted) ∧ ∀ t ∈ s.sTracker, t.state ≠ .accepted

/-! ### Requests -/

/-- The four conditions of R2 under which a port accepts. -/
abbrev State.canAccept (s : State) (port : Port) : Prop :=
  s.resetn = true ∧ s.softReset = false ∧ (s.tracker port).length < 8 ∧
  (port = .p → ∀ t ∈ s.pTracker, t.isHeld = false)

/-- The burst lies within one line (R5). -/
abbrev withinLine (req : Request) : Prop :=
  4 * req.wordAddr.toNat / 64 = (4 * req.wordAddr.toNat + 4 * (req.lengthLess1.val + 1) - 1) / 64

/-- The request lies in the window. -/
abbrev inWindowOf (req : Request) (d : Definition) : Prop := d.window ≤ req.addr ∧ req.addr < d.window + 64 * d.size

/-- The request lies in the window of the ACTIVE region in slot `k`, and in that of no ACTIVE region in a lower slot (R6; windows
of ACTIVE regions never overlap, R27). -/
abbrev State.matches (s : State) (req : Request) (k : SlotNo) (g : Region) : Prop :=
  s.region? k = some g ∧ g.life = .active ∧ inWindowOf req g.defn ∧
  ∀ j < k, ∀ g' ∈ s.region? j, g'.life = .active → ¬ inWindowOf req g'.defn

/-- The request lies in no window of an ACTIVE region (R6). -/
abbrev State.unmatched (s : State) (req : Request) : Prop :=
  ∀ j, ∀ g ∈ s.region? j, g.life = .active → ¬ inWindowOf req g.defn

/-- The request lies in a bank of an ACTIVE or RETIRING region (R7). -/
abbrev State.inGuardedBank (s : State) (req : Request) : Prop :=
  ∃ j, ∃ g ∈ s.region? j, g.life ≠ .defined ∧
    ∃ base ∈ g.defn.banks, base ≤ req.addr ∧ req.addr < base + 64 * g.defn.size

/-- The writer filter passes the tag: equal to the writer code in every bit the care mask sets (R32). -/
abbrev Definition.passesTag (d : Definition) (tag : BitVec 6) : Prop :=
  ∀ b < 6, d.care.getLsbD b = true → tag.getLsbD b = d.code.getLsbD b

/-- Sixteen words with every byte enable set (R52). -/
abbrev isFullLine (req : Request) : Prop := req.length = 16 ∧ req.enables = List.replicate 16 0xF

/-- The read and the record share a byte: one of the read's bytes is covered by the record with its byte enable set (R100). -/
abbrev sharesByte (d : Definition) (req : Request) (r : QRecord) : Prop :=
  d.lineOf req.addr = r.line ∧ ∃ b < 64,
    ((req.addr - d.window) % 64 ≤ b ∧ b < (req.addr - d.window) % 64 + 4 * req.length) ∧
    (r.first ≤ b / 4 ∧ b / 4 < r.first + r.count) ∧ (r.enables.getD (b / 4 - r.first) 0).getLsbD (b % 4) = true

/-- Some queued record of the region shares a byte with the read (R100). -/
abbrev State.overlapped (s : State) (k : SlotNo) (d : Definition) (req : Request) : Prop :=
  ∃ r ∈ s.queue, r.region = k ∧ sharesByte d req r

/-- Table 3-3, for a read that is not held: the bank it reaches. -/
def readLands (c : Cycle) (line : Nat) : Bank :=
  if c.pub = .halted ∨ c.pub = .draining then c.front
  else if c.line line = .sync ∨ c.line line = .dirty then c.front.other else c.front

/-- Table 7-1: the physical line an S read of window line `i` reaches (R131). -/
def scanLine (g : Region) (i : Nat) : Nat :=
  match g.defn.rotation, g.rot with
  | some r, some x => if i < r.head ∨ r.head + r.body ≤ i then i else r.head + (i - r.head + x.offset) % r.body
  | _, _ => i

/-- The physical address of an S read in the bank at `base` (R131). -/
def scanTarget (g : Region) (base : Nat) (req : Request) : Nat :=
  base + 64 * scanLine g ((req.addr - g.defn.window) / 64) + (req.addr - g.defn.window) % 64

/-- A line becomes DIRTY with its counts (Table 3-2). -/
def Cycle.dirtied (c : Cycle) (line : Nat) : Cycle :=
  { c with
    lines := c.lines.set line .dirty
    stale := if c.line line = .stale ∨ c.line line = .copying then c.stale - 1 else c.stale
    dirty := if c.line line = .dirty then c.dirty else c.dirty + 1 }

/-- The record with other publish cycle items. -/
def Region.withCycle (g : Region) (c : Cycle) : Region := { g with cycle := some c }

/-- Table 5 of R97: the target generation of a record appended now. -/
def targetNow (c : Cycle) : BitVec 16 :=
  if c.pub = .sealWait ∨ c.pub = .isSealed ∨ (c.pub = .draining ∧ c.sealPending = true) then c.gen + 2 else c.gen + 1

/-- The record of a posted write (Table 5-1). -/
def postedRecord (k : SlotNo) (g : Region) (c : Cycle) (req : Request) : QRecord :=
  { region := k, target := targetNow c, line := (req.addr - g.defn.window) / 64
    first := (req.addr - g.defn.window) % 64 / 4, count := req.length, enables := req.enables, data := req.data
    selected := false }

/-- The demand list after an entry of the P path for a line joins (R120). -/
def State.demandOfP (s : State) (k : SlotNo) (line : Nat) : List DemandEntry :=
  if ∃ e ∈ s.demand, e.region = k ∧ e.line = line then s.demand
  else s.demand.filterMap (fun e =>
    if e.requester = .replay then some e
    else if s.replay = .waiting .demand ∧ ∃ r ∈ s.queue, r.selected = true ∧ r.region = e.region ∧ r.line = e.line then
      some { e with requester := .replay }
    else none) ++ [⟨k, line, .pPath⟩]

/-- The P tracker's youngest transaction, `t`, is held with this reason, age and limit, and no older one is held. -/
abbrev State.holdsYoungest (s : State) (older : List Tx) (t : Tx) (reason : HoldReason) (age limit : Nat) : Prop :=
  s.pTracker = older ++ [t] ∧ (∀ u ∈ older, u.isHeld = false) ∧ t.state = .held reason age limit

/-! ### Errors and fences -/

/-- The record after a memory error report that does not fence (R143 to R145). -/
def Region.afterReport (g : Region) : Region :=
  if g.health = .fenced then { g with conds := g.conds ||| 0x0010 }
  else
    { g with
      score := min 256 (g.score + 8)
      health := if 96 ≤ min 256 (g.score + 8) then .warned else .healthy
      conds := g.conds ||| 0x0010 ||| (if g.health = .healthy ∧ 96 ≤ min 256 (g.score + 8) then 0x0020 else 0) }

/-- The report fences the region: it brings the score of a live double region to 256 (R146). -/
abbrev Region.fencesAt (g : Region) : Prop :=
  g.health ≠ .fenced ∧ g.cycle.isSome = true ∧ g.life ≠ .defined ∧ 256 ≤ g.score + 8

/-- The records of the region whose write the replay unit has not issued (R108). -/
def State.notIssued (s : State) (k : SlotNo) : Nat :=
  (s.queue.filter fun r => r.region == k && !(r.selected && s.replay.isIssued)).length

/-! ### The copy engine and the replay unit -/

/-- The line is catch-up work (R111). -/
abbrev State.catchUp (s : State) (k : SlotNo) (line : Nat) : Prop :=
  ∃ g ∈ s.region? k, g.life = .active ∧ ∃ c ∈ g.cycle, (c.pub = .opened ∨ c.pub = .sealWait) ∧
    c.lines[line]? = some .stale ∧
    ∀ t ∈ s.pTracker, t.state = .accepted → t.count = some .writer → t.region = some k → g.defn.lineOf t.req.addr ≠ line

/-- How far a slot number lies behind the round-robin pointer: 0 for the next one, 15 for the pointer's own (R114). -/
def distance (ptr k : SlotNo) : Nat := (k.val + 15 - ptr.val) % 16

/-- The state after slot `j` takes a line of the region `g` with cycle items `c` (R115); its read request is the youngest ready
request. -/
def State.afterTake (s : State) (j : Fin 4) (k : SlotNo) (line : Nat) (g : Region) (c : Cycle) : State :=
  { s with
    slots := s.slots.set j (.copying
      { region := k, line := line, source := c.front, target := c.front.other, phase := .read, attempt := 1
        demanded := s.demand.any fun e => e.region == k && e.line == line, ending := false, buffer := [] })
    table := s.table.set k (some (g.withCycle { c with lines := c.lines.set line .copying }))
    demand := s.demand.filter fun e => !(e.region == k && e.line == line)
    replay := if s.replay = .waiting .demand ∧ ∃ r ∈ s.queue, r.selected = true ∧ r.region = k ∧ r.line = line then
        .waiting .copying
      else s.replay
    ready := s.ready ++ [.slot j] }

/-- The record is eligible for replay (R102). -/
abbrev State.replayable (s : State) (r : QRecord) : Prop :=
  ∃ g ∈ s.region? r.region, g.life = .active ∧ ∃ c ∈ g.cycle, (c.pub = .opened ∨ c.pub = .sealWait) ∧
    r.target = c.gen + 1 ∧ c.writers = 0

/-- A P read in ACCEPTED state, resolved to the draft bank, covers a byte that the record covers (R59). -/
abbrev State.readInTheWay (s : State) (r : QRecord) (d : Definition) (c : Cycle) : Prop :=
  ∃ t ∈ s.pTracker, t.state = .accepted ∧ t.req.kind = .read ∧ t.region = some r.region ∧
    t.bank = some c.front.other ∧ sharesByte d t.req r

/-- The record covers its line in full (R58). -/
abbrev recordIsFull (r : QRecord) : Prop := r.first = 0 ∧ r.count = 16 ∧ r.enables = List.replicate 16 0xF

/-- Table 3-4 and R103 for the selected record `r`: `t` is the state the unit reaches from `s`. -/
abbrev replayReaches (s t : State) (r : QRecord) (g : Region) (c : Cycle) : Prop :=
  (c.line r.line = .copying → t = { s with replay := .waiting .copying }) ∧
  (c.line r.line = .stale → ¬ recordIsFull r → t =
    { s with
      replay := .waiting .demand
      demand := if ∃ e ∈ s.demand, e.region = r.region ∧ e.line = r.line then s.demand
        else s.demand ++ [⟨r.region, r.line, .replay⟩] }) ∧
  ((c.line r.line = .sync ∨ c.line r.line = .dirty ∨ (c.line r.line = .stale ∧ recordIsFull r)) →
    (s.readInTheWay r g.defn c → t = { s with replay := .waiting .read }) ∧
    (¬ s.readInTheWay r g.defn c → t =
      { s with
        replay := .issued r.region
          { kind := .write, addr := g.defn.bankBase c.front.other + 64 * r.line + 4 * r.first, length := r.count
            enables := r.enables, data := r.data, tag := 0x3F }
        demand := s.demand.filter fun e => !(e.region == r.region && e.line == r.line)
        table := s.table.set r.region (some (g.withCycle (c.dirtied r.line)))
        ready := s.ready ++ [.replay] }))

/-! ### The publish cycle -/

/-- The three readiness conditions of R72. -/
abbrev State.readiness (s : State) (k : SlotNo) (c : Cycle) : Prop :=
  c.stale = 0 ∧ (∀ r ∈ s.queue, r.region = k → r.target ≠ c.gen + 1) ∧ c.writers = 0

/-- What a seal makes of the publish cycle items (R72, R73). -/
abbrev sealReaches (s : State) (k : SlotNo) (c c' : Cycle) : Prop :=
  (c.pub = .opened → s.readiness k c → c' = { c with pub := .isSealed }) ∧
  (c.pub = .opened → ¬ s.readiness k c → c' = { c with pub := .sealWait }) ∧
  (c.pub = .draining → c' = { c with sealPending := true }) ∧
  ((c.pub = .sealWait ∨ c.pub = .isSealed ∨ c.pub = .halted) → c' = c)

/-- The regions of `t` are those of `s` after one seal of each of the groups (R70 to R73). -/
abbrev sealedTo (s t : State) (groups : Fin 4 → Prop) : Prop :=
  (∀ k, s.region? k = none → t.region? k = none) ∧
  ∀ k, ∀ g ∈ s.region? k,
    (∀ d c, g.life = .active → g.defn.double = some d → groups d.group → g.cycle = some c →
      ∃ c', t.region? k = some (g.withCycle c') ∧ sealReaches s k c c') ∧
    ((g.life ≠ .active ∨ g.cycle = none ∨ ∀ d ∈ g.defn.double, ¬ groups d.group) → t.region? k = some g)

/-- Nothing of the region is in flight: no transaction, no copy slot, no issued replay write (R40). -/
abbrev State.nothingInFlight (s : State) (k : SlotNo) : Prop :=
  (∀ t ∈ s.pTracker ++ s.sTracker, t.region ≠ some k) ∧
  (∀ (j : Fin 4) x, s.slots[j] = .copying x → x.region ≠ k) ∧
  (∀ (j : Fin 4) r ph, s.slots[j] = .finishing r ph → r ≠ k) ∧
  ∀ r w, s.replay = .issued r w → r ≠ k

/-- The offset change of R134: the staged offset, or the offset advanced by the step, modulo B. -/
def offsetChanged (g : Region) : Option Rot :=
  match g.defn.rotation, g.rot with
  | some r, some x =>
    match x.staged with
    | some v => some { x with offset := v, staged := none }
    | none => some { x with offset := (x.offset + x.step) % r.body }
  | _, r => r

/-- The record after a publish (R78 to R80), for a region whose health is not FENCED. -/
def Region.afterPublish (g : Region) (c : Cycle) : Region :=
  { g with
    cycle := some
      { c with
        front := c.front.other
        gen := c.gen + 1
        lines := c.lines.map fun l => if l = .dirty then .stale else l
        stale := c.stale + c.dirty
        dirty := 0
        pub := if c.readers c.front = 0 then .opened else .draining }
    rot := offsetChanged g
    score := g.score - 1
    health := if 96 ≤ g.score - 1 then .warned else .healthy
    conds := g.conds ||| 0x0001 }

/-! ### What a command leaves alone -/

/-- The state outside the reach of traffic: queue of commands, reset level, policies, the link's reply and the model's
counter. -/
structure Frame where
  pending : List Instr
  resetn : Bool
  holdLimit : Nat
  floor : Nat
  refuseUnmatched : Bool
  attnMask : Kinds
  reply : Option Reply
  freeCount : Nat
deriving DecidableEq, Repr

/-- The frame of a state. -/
def State.frame (s : State) : Frame where
  pending := s.pending
  resetn := s.resetn
  holdLimit := s.holdLimit
  floor := s.floor
  refuseUnmatched := s.refuseUnmatched
  attnMask := s.attnMask
  reply := s.reply
  freeCount := s.freeCount

/-- What the ports, the memory and the blocks do by themselves, without an error, a refused write, a seal, an epoch or the time
base: a write request is one that no writer filter and no S port refuses, so direct, held, posted and FENCED writes are among
them. -/
abbrev isTraffic (s : State) : Instr → Prop
  | .requestAcceptance port req => req.kind = .write → ∀ k, ∀ g ∈ s.region? k, g.life = .active → inWindowOf req g.defn →
      port = .p ∧ g.defn.passesTag req.tag
  | .responseTaken _ => True
  | .holdRelease => True
  | .arbiterGrant => True
  | .memoryTakesRequest => True
  | .mResponse mstatus _ => mstatus = .okay
  | .copyTake => True
  | .replaySelect => True
  | .replayIssue => True
  | .sealedEntry _ => True
  | .drainEnd _ => True
  | .returnToDefined _ => True
  | .softResetEnd => True
  | _ => False

/-- The record after such a happening: everything but the counts, the line map and the publish state is kept, or the region has
returned from RETIRING to DEFINED (R40). -/
abbrev Region.keptIn (g g' : Region) : Prop :=
  g'.defn = g.defn ∧ g'.health = g.health ∧ g'.score = g.score ∧ g'.missed = g.missed ∧
  g'.timeouts = g.timeouts ∧ g'.refused = g.refused ∧ g'.lastDiscard = g.lastDiscard ∧
  ((g'.life = g.life ∧ g'.conds = g.conds ∧ g'.rot = g.rot ∧ g'.cycle.isSome = g.cycle.isSome ∧
    ∀ c ∈ g.cycle, ∀ c' ∈ g'.cycle,
      c'.gen = c.gen ∧ c'.front = c.front ∧ c'.lines.length = c.lines.length) ∨
   (g.life = .retiring ∧ g'.life = .defined ∧ g'.conds = g.conds ||| 0x0100 ∧ g'.cycle = none ∧
    g'.rot = g.rot.map fun x => { x with staged := none }))

/-! ### Invariants -/

/-- The stale count is the number of STALE and COPYING lines, the dirty count that of DIRTY lines, and the region holds as
many pool entries as its size (R28, R46). -/
abbrev State.countsAgree (s : State) : Prop :=
  ∀ k, ∀ g ∈ s.region? k, ∀ c ∈ g.cycle,
    c.stale = c.lines.countP (fun l => l == .stale || l == .copying) ∧
    c.dirty = c.lines.countP (· == .dirty) ∧ c.lines.length = g.defn.size

/-- The numbers stay in the ranges of 00_scope.md: trackers and outstanding list of at most 8, a queue of at most 32, policies and
per-region values in range, passed-over counts within the floor (R164). -/
abbrev State.inRange (s : State) : Prop :=
  (s.pTracker.length ≤ 8 ∧ s.sTracker.length ≤ 8 ∧ s.queue.length ≤ 32 ∧ s.outstanding.length ≤ 8) ∧
  ((1 ≤ s.holdLimit ∧ s.holdLimit ≤ 65535) ∧ (2 ≤ s.floor ∧ s.floor ≤ 16)) ∧
  (s.pPassed < s.floor ∧ s.cPassed ≤ s.floor ∧ (s.cPassed = s.floor → s.pPassed = 0)) ∧
  ∀ k, ∀ g ∈ s.region? k,
    g.score ≤ 256 ∧ g.missed ≤ 255 ∧ g.timeouts ≤ 255 ∧ g.refused ≤ 255 ∧ g.lastDiscard ≤ 32

/-- The publish cycle items stand where Table 2-2 says: in double regions that are ACTIVE or RETIRING, and nowhere else; rotation
items stand where the rotation part does, and lie below B (R130). -/
abbrev State.wellPlaced (s : State) : Prop :=
  ∀ k, ∀ g ∈ s.region? k,
    (g.cycle.isSome = true ↔ g.defn.double.isSome = true ∧ g.life ≠ .defined) ∧
    g.rot.isSome = g.defn.rotation.isSome ∧
    ∀ x ∈ g.rot, ∀ r ∈ g.defn.rotation,
      r.autoStep < r.body ∧ x.offset < r.body ∧ x.step < r.body ∧ ∀ v ∈ x.staged, v < r.body

/-- A double region in ACTIVE or RETIRING state is FENCED exactly when it is HALTED (R146); a single region is never FENCED
(R35); the seal-pending flag is set only in DRAINING (R74); the health follows the score (R145). -/
abbrev State.healthAgrees (s : State) : Prop :=
  ∀ k, ∀ g ∈ s.region? k,
    (∀ c ∈ g.cycle, (g.health = .fenced ↔ c.pub = .halted) ∧ (c.sealPending = true → c.pub = .draining)) ∧
    (g.defn.double = none → g.health ≠ .fenced) ∧
    (g.health = .healthy → g.score < 96) ∧ (g.health = .warned → 96 ≤ g.score) ∧ (g.health = .fenced → g.score = 256)

/-- A held P transaction is the youngest of the P tracker, and no S transaction is held (R2, R9). -/
abbrev State.heldIsYoungest (s : State) : Prop :=
  (∀ t ∈ s.pTracker.dropLast, t.isHeld = false) ∧ ∀ t ∈ s.sTracker, t.isHeld = false

/-- The copy slot is COPYING and holds this. -/
abbrev State.copies (s : State) (j : Fin 4) (x : Copy) : Prop := s.slots[j] = .copying x

/-- Each line a slot holds is COPYING in the line map of a region that is not HALTED, and goes from the front bank to the draft
bank; no two slots hold one line; each COPYING line is held by a slot; a SEALED region has stale count 0 (R75, R115). -/
abbrev State.copiesAgree (s : State) : Prop :=
  (∀ j x, s.copies j x → ∃ g ∈ s.region? x.region, ∃ c ∈ g.cycle,
    c.lines[x.line]? = some .copying ∧ c.pub ≠ .halted ∧ x.source = c.front ∧ x.target = c.front.other) ∧
  (∀ j j' x x', s.copies j x → s.copies j' x' → x.region = x'.region → x.line = x'.line → j = j') ∧
  (∀ k, ∀ g ∈ s.region? k, ∀ c ∈ g.cycle, ∀ i, c.lines[i]? = some .copying →
    ∃ j x, s.copies j x ∧ x.region = k ∧ x.line = i) ∧
  ∀ k, ∀ g ∈ s.region? k, ∀ c ∈ g.cycle, c.pub = .isSealed → c.stale = 0

/-- Accepted transactions that entered this count of the region and have not completed. -/
def State.countedIn (s : State) (k : SlotNo) (e : CountEntry) : Nat :=
  (s.pTracker ++ s.sTracker).countP fun t => t.region == some k && t.count == some e

/-- Reader counts and draft writer count are numbers of transactions (R62, R63): each transaction that entered a count belongs to
a region with publish cycle items; a P transaction held OVERLAP or QUEUE has entered none. -/
abbrev State.transactionsCounted (s : State) : Prop :=
  (∀ k, ∀ g ∈ s.region? k, ∀ c ∈ g.cycle,
    c.readersA = s.countedIn k (.reader .a) ∧ c.readersB = s.countedIn k (.reader .b) ∧
    c.writers = s.countedIn k .writer) ∧
  (∀ t ∈ s.pTracker ++ s.sTracker, t.count ≠ none →
    ∃ k, t.region = some k ∧ ∃ g ∈ s.region? k, g.cycle.isSome = true) ∧
  ∀ t ∈ s.pTracker, ∀ reason age limit, t.state = .held reason age limit → reason = .overlap ∨ reason = .queue →
    t.count = none

/-- The entries of the tracking pool in use are at most 16384 (R28). -/
abbrev State.poolFits (s : State) : Prop := s.poolUsed ≤ 16384

/-- No window or bank of a region in ACTIVE or RETIRING state shares a line with one of another such region (R27). -/
abbrev State.regionsApart (s : State) : Prop := ∀ k, ∀ g ∈ s.region? k, g.life ≠ .defined → ¬ s.clashing k g.defn

/-- The reason a transaction is HELD for. -/
def Tx.heldFor (t : Tx) : Option HoldReason :=
  match t.state with
  | .held reason _ _ => some reason
  | .accepted | .issued | .done _ _ => none

/-- A held P transaction is of an ACTIVE double region that is not FENCED; a write held DEMAND or COPYING has entered the draft
writer count (R15, R38, R53, R54, R148). -/
abbrev State.heldAgrees (s : State) : Prop :=
  ∀ t ∈ s.pTracker, ∀ reason ∈ t.heldFor, ∃ k ∈ t.region, ∃ g ∈ s.region? k, g.life = .active ∧ g.health ≠ .fenced ∧
    g.cycle.isSome = true ∧ (reason = .demand ∨ reason = .copying → t.count = some .writer)

/-- The target generations R97 allows a queued record of a region in this publish state. -/
abbrev targetFits (c : Cycle) (target : BitVec 16) : Prop :=
  c.pub ≠ .halted ∧ (c.pub = .opened → target = c.gen + 1) ∧ (c.pub = .isSealed → target = c.gen + 2) ∧
  (c.pub = .draining → c.sealPending = false → target = c.gen + 1) ∧
  (c.pub = .sealWait ∨ c.pub = .draining → target = c.gen + 1 ∨ target = c.gen + 2)

/-- Every queued record is of an ACTIVE region that is not FENCED, its target is one of R97, and the records of the draft
generation are older than those after it (R94, R97). -/
abbrev State.queueAgrees (s : State) : Prop :=
  (∀ r ∈ s.queue, ∃ g ∈ s.region? r.region, g.life = .active ∧ g.health ≠ .fenced ∧
    ∃ c ∈ g.cycle, targetFits c r.target) ∧
  s.queue.Pairwise fun q r => q.region = r.region →
    ∀ g ∈ s.region? r.region, ∀ c ∈ g.cycle, r.target = c.gen + 1 → q.target = c.gen + 1

/-- The replay unit has at most one selected record, none when IDLE and one when WAITING; it stays eligible, and one that waits
DEMAND is partial (R102, R103). -/
abbrev State.replayAgrees (s : State) : Prop :=
  s.queue.countP (·.selected) ≤ 1 ∧ (∀ r ∈ s.queue, r.selected = true → s.replayable r) ∧
  (s.replay = .idle → ∀ r ∈ s.queue, r.selected = false) ∧
  (s.replay ≠ .idle → s.replay.isIssued = false → ∃ r ∈ s.queue, r.selected = true) ∧
  (s.replay = .waiting .demand → ∀ r ∈ s.queue, r.selected = true → ¬ recordIsFull r)

/-- The demand list has at most 2 entries, one of each requester and none twice for a line, each for a STALE line of an ACTIVE
region in OPEN or SEAL_WAIT; the replay unit's is for the line its record waits DEMAND on (R120, R121). -/
abbrev State.demandAgrees (s : State) : Prop :=
  s.demand.length ≤ 2 ∧ (s.demand.Pairwise fun e f => e.requester ≠ f.requester) ∧
  (s.demand.Pairwise fun e f => ¬ (e.region = f.region ∧ e.line = f.line)) ∧
  (∀ e ∈ s.demand, ∃ g ∈ s.region? e.region, g.life = .active ∧ ∃ c ∈ g.cycle,
    (c.pub = .opened ∨ c.pub = .sealWait) ∧ c.lines[e.line]? = some .stale) ∧
  ∀ e ∈ s.demand, e.requester = .replay → s.replay = .waiting .demand ∧
    ∃ r ∈ s.queue, r.selected = true ∧ r.region = e.region ∧ r.line = e.line

/-- A SEALED region has stale count 0, no queued record of its draft generation and a draft writer count of 0 (R75). -/
abbrev State.sealedReady (s : State) : Prop :=
  ∀ k, ∀ g ∈ s.region? k, ∀ c ∈ g.cycle, c.pub = .isSealed → s.readiness k c

/-- The slot is FINISHING. -/
def CopySlot.isFinishing : CopySlot → Bool
  | .finishing _ _ => true
  | .free | .copying _ => false

/-- How many requests of this part of the engine are ready or granted and not yet answered. -/
def State.requestsOf (s : State) (e : EngineReq) : Nat :=
  s.ready.countP (· == e) + s.outstanding.countP fun o => o.owner == .engine e

/-- The requests of the engine (R119, R124, R159): a COPYING slot and an ISSUED replay unit have exactly one, ready or granted, a
FINISHING slot one that is granted, the others none; the presented request is a ready one. -/
abbrev State.requestsAgree (s : State) : Prop :=
  s.readyNow = [] ∧ (∀ e ∈ s.presented, e ∈ s.ready) ∧
  (s.requestsOf .replay = if s.replay.isIssued then 1 else 0) ∧
  ∀ j : Fin 4, s.requestsOf (.slot j) = (if s.slots[j] = .free then 0 else 1) ∧
    ((s.slots[j]).isFinishing = true → EngineReq.slot j ∉ s.ready)

/-- Response data goes with ACK alone (R169). -/
abbrev State.replyAgrees (s : State) : Prop := ∀ r ∈ s.reply, r.result ≠ .ack → r.data = []

/-- The safety invariant of the part. -/
abbrev State.safe (s : State) : Prop :=
  s.countsAgree ∧ s.inRange ∧ s.wellPlaced ∧ s.healthAgrees ∧ s.heldIsYoungest ∧ s.copiesAgree ∧ s.transactionsCounted ∧
  s.poolFits ∧ s.regionsApart ∧ s.heldAgrees ∧ s.queueAgrees ∧ s.replayAgrees ∧ s.demandAgrees ∧ s.sealedReady ∧
  s.requestsAgree ∧ s.replyAgrees

/-! ### Nothing left to do -/

/-- The reason of the hold has not passed (R16): a DEMAND or COPYING write's line is not copied yet, a QUEUE write finds the queue
full, an OVERLAP read shares a byte with a queued record. -/
abbrev State.holdStands (s : State) (t : Tx) (reason : HoldReason) : Prop :=
  ∃ k ∈ t.region, ∃ g ∈ s.region? k, ∃ c ∈ g.cycle,
    (reason = .demand ∨ reason = .copying →
      c.line (g.defn.lineOf t.req.addr) = .stale ∨ c.line (g.defn.lineOf t.req.addr) = .copying) ∧
    (reason = .queue → 32 ≤ s.queue.length) ∧ (reason = .overlap → s.overlapped k g.defn t.req)

/-- The selected record cannot be issued (R59, R103): its line is COPYING, or STALE under a partial record, or a P read in
ACCEPTED state is in the way. -/
abbrev State.recordStands (s : State) (r : QRecord) : Prop :=
  ∃ g ∈ s.region? r.region, ∃ c ∈ g.cycle,
    c.line r.line = .copying ∨ (c.line r.line = .stale ∧ ¬ recordIsFull r) ∨ s.readInTheWay r g.defn c

/-- Between two happenings no block has anything left to do (R16, R40, R76, R87, R102, R103, R112, R119, R162, R184): no drain to
end, no SEAL_WAIT region that is ready, no hold whose reason has passed, no eligible record beside an IDLE unit, no waiting record
that could be issued, no FREE slot beside catch-up work, no ready request while the engine presents none, no grant to take, no
RETIRING region with nothing in flight, no soft reset on an idle port. -/
abbrev State.restful (s : State) : Prop :=
  (∀ k, ∀ g ∈ s.region? k, ∀ c ∈ g.cycle, g.life = .active → c.pub = .draining → 0 < c.readers c.front.other) ∧
  (∀ k, ∀ g ∈ s.region? k, ∀ c ∈ g.cycle, g.life = .active → c.pub = .sealWait → ¬ s.readiness k c) ∧
  (∀ t ∈ s.pTracker, ∀ reason ∈ t.heldFor, s.holdStands t reason) ∧
  (s.replay = .idle → ∀ r ∈ s.queue, ¬ s.replayable r) ∧
  (s.replay ≠ .idle → s.replay.isIssued = false → ∀ r ∈ s.queue, r.selected = true → s.recordStands r) ∧
  ((∃ j : Fin 4, s.slots[j] = .free) → ∀ k line, ¬ s.catchUp k line) ∧
  (s.presented = none → s.ready = []) ∧
  (s.outstanding.length < 8 → s.mRequest = none → s.presented = none ∧
    (∀ t ∈ s.pTracker, t.state ≠ .accepted) ∧ ∀ t ∈ s.sTracker, t.state ≠ .accepted) ∧
  (∀ k, ∀ g ∈ s.region? k, g.life = .retiring → ¬ s.nothingInFlight k) ∧
  (s.softReset = true → ¬ s.mPortIdle)

/-! ### The arbiter over many grants (R164) -/

/-- The positions granted by `n` grants at each of which all three requesters present, from these passed-over counts. -/
def grantsTo (floor : Nat) : Nat → Nat → Nat → List Position
  | 0, _, _ => []
  | n + 1, p, c =>
    match chooseGrant floor p c true true true with
    | some x => x :: grantsTo floor n (passedOver p true (x == .p)) (passedOver c true (x == .engine))
    | none => []

end Sys2Proof.Machine
end

