-- ==== Sys2Proof/Certificates/Slice0/Obligations.lean ====
section
/-! DEFINITION. The statements for the provers. `State.settle` is the rest of a happening: what the blocks do in it by themselves
(log 1); the statements about the blocks' own rows and `HappeningsEndWithNothingLeftToDo` say what it does. -/

open Sys2Proof Sys2Proof.Machine

/-! ### The block, reset and soft reset -/

/-- A step takes the command at the front of the queue and runs it on the state with the queue's rest; on an empty queue the block
idles (the model's choice, log 4). -/
def Obligations.StepTakesTheFrontCommand : Prop :=
  (∀ (s : State) (c : Instr) (rest : List Instr),
    s.pending = c :: rest → step s = exec c { s with pending := rest }) ∧
  ∀ s : State, s.pending = [] → step s = .next s

/-- While RESETn is low nothing is accepted, granted, taken or answered (R18, R70, R77, R168, R185). -/
def Obligations.NothingIsTakenWhileResetIsLow : Prop :=
  ∀ (s : State) (c : Instr), s.resetn = false → c ≠ .hardReset → c ≠ .hardResetRelease → exec c s = .next s

/-- HARD_RESET takes RESETn low and HARD_RESET_RELEASE high again; after each the part holds the values of a hard reset (that the
values already stand while the level is low is the model's choice, log 5). With RESETn high a release changes nothing. -/
def Obligations.HardResetLeavesNothing : Prop :=
  ∀ s : State,
    (∃ t, exec .hardReset s = .next t ∧ t.resetn = false ∧ afterHardReset s t) ∧
    (s.resetn = false → ∃ t, exec .hardResetRelease s = .next t ∧ t.resetn = true ∧ afterHardReset s t) ∧
    (s.resetn = true → exec .hardResetRelease s = .next s)

/-- The state after reset holds the values of a hard reset, and meets every invariant. -/
def Obligations.ResetStateIsSafe : Prop :=
  State.reset.resetn = true ∧ State.reset.pending = [] ∧ afterHardReset State.reset State.reset ∧ State.reset.safe

/-- SOFTRESET is answered ACK, answers every transaction RESET, returns every region to DEFINED, empties queue and demand list,
frees the copy slots or lets them finish, and ends at once exactly when the M port is idle (R20, R43, R109, R128, R166, R182,
R184). That a RESET transaction leaves no count is log 10. -/
def Obligations.SoftresetResult : Prop :=
  ∀ (s : State) (b : Byte), s.linkUp → ∃ t, exec (.softreset b) s = .next t ∧
    (t.pending = s.pending ∧ t.resetn = true ∧ t.timeBase = s.timeBase ∧ t.holdLimit = s.holdLimit ∧ t.floor = s.floor ∧
      t.refuseUnmatched = s.refuseUnmatched ∧ t.attnMask = s.attnMask ∧ t.freeCount = s.freeCount) ∧
    t.reply = answerOf 3 .ack ∧
    (t.pTracker = s.pTracker.map (fun x => { x with state := .done .reset [], count := none }) ∧
      t.sTracker = s.sTracker.map fun x => { x with state := .done .reset [], count := none }) ∧
    (∀ k, s.region? k = none → t.region? k = none) ∧
    (∀ k, ∀ g ∈ s.region? k, t.region? k = some
      { life := .defined, defn := g.defn, health := .healthy, score := 0, missed := 0, timeouts := 0, refused := 0
        lastDiscard := 0, conds := 0, rot := g.rot.map (fun x => { x with offset := 0, staged := none }), cycle := none }) ∧
    (t.queue = [] ∧ t.demand = [] ∧ t.rrPtr = 15 ∧ t.pPassed = 0 ∧ t.cPassed = 0) ∧
    (∀ k w, s.replay = .issued k w → t.replay = .issued k w) ∧
    (s.replay.isIssued = false → t.replay = .idle) ∧
    (∀ j : Fin 4, s.slots[j] = .free → t.slots[j] = .free) ∧
    (∀ (j : Fin 4) k ph, s.slots[j] = .finishing k ph → t.slots[j] = .finishing k ph) ∧
    (∀ (j : Fin 4) x, s.slots[j] = .copying x →
      ((∃ o ∈ s.outstanding, o.owner = .engine (.slot j)) → t.slots[j] = .finishing x.region x.phase) ∧
      ((∀ o ∈ s.outstanding, o.owner ≠ .engine (.slot j)) → t.slots[j] = .free)) ∧
    (t.outstanding = s.outstanding ∨ ∃ k w, s.replay = .issued k w ∧
      t.outstanding = s.outstanding ++ [{ owner := .engine .replay, kind := w.kind, length := w.length }]) ∧
    (t.mPortIdle → t.softReset = false ∧ t.devConds = 0x1000) ∧
    (¬ t.mPortIdle → t.softReset = true ∧ t.devConds = 0)

/-- A soft reset ends exactly when the M port is idle: the flag is cleared and RESET_DONE is set, nothing else (R167, R184). That
the end can be commanded by itself is log 2. -/
def Obligations.SoftResetEndsWhenThePortIsIdle : Prop :=
  ∀ s : State, s.resetn = true →
    (s.softReset = true → s.mPortIdle →
      exec .softResetEnd s = .next { s with softReset := false, devConds := s.devConds ||| 0x1000 }) ∧
    (s.softReset = false ∨ ¬ s.mPortIdle → exec .softResetEnd s = .next s)

/-- During a soft reset every command of Table 10-2 but DEVSTATUS is answered BUSY and has no effect, and no request is accepted
(R19, R172, R183). -/
def Obligations.BusyDuringSoftReset : Prop :=
  ∀ s : State, s.resetn = true → s.softReset = true →
    (∀ c bytes, encodeFrame c = some bytes → (∀ b, c ≠ .devstatus b) → (∀ a b, c ≠ .unknownCommand a b) →
      exec c s = .next { s with reply := answerOf (bytes.length + 1) .busy }) ∧
    ∀ port req, exec (.requestAcceptance port req) s = .next s

/-! ### Commands on slots -/

/-- A slot byte past 0Fh is answered BADARG, a slot in a state in which Table 10-3 does not offer the command BADSTATE; neither
examines a parameter or changes anything but the reply (R21, R172). -/
def Obligations.SlotCommandsNeedTheirSlotState : Prop :=
  ∀ (s : State) (c : Instr) (slot : Byte) (bytes : List Byte),
    s.linkUp → slotByte c = some slot → encodeFrame c = some bytes →
    (16 ≤ slot.toNat → exec c s = .next { s with reply := answerOf (bytes.length + 1) .badarg }) ∧
    ∀ k : SlotNo, slot.toNat = k.val → ¬ availableIn c (s.region? k) →
      exec c s = .next { s with reply := answerOf (bytes.length + 1) .badstate }

/-- DEFINE on a FREE slot: ACK and a new DEFINED record exactly when every check of R23 and R24 passes, BADARG and nothing written
otherwise (R22 to R24, R173). -/
def Obligations.DefineAcksExactlyTheValidDefinitions : Prop :=
  ∀ (s : State) (slot : Byte) (k : SlotNo) (p : DefineParams),
    s.linkUp → slot.toNat = k.val → s.region? k = none →
    (ValidDefinition p → ∃ d : Definition, d.holds p ∧
      exec (.define slot p) s = .next
        { s.putRegion k (some
            { life := .defined, defn := d, health := .healthy, score := 0, missed := 0, timeouts := 0, refused := 0
              lastDiscard := 0, conds := 0, cycle := none
              rot := if p.flags.getLsbD 3 then some { offset := 0, staged := none, step := p.autoStep.toNat } else none })
          with reply := answerOf 29 .ack }) ∧
    (¬ ValidDefinition p → exec (.define slot p) s = .next { s with reply := answerOf 29 .badarg })

/-- READDEF answers ACK with 26 bytes that hold the definition of the slot, absent items 00h and marked absent, and changes no
state; on a FREE slot BADSTATE (R26, R173, Table 10-4). The bits that carry no item are free, and the model's counter behind them
moves: both are the model's choice (log 8). -/
def Obligations.ReaddefReturnsTheDefinition : Prop :=
  ∀ (s : State) (slot : Byte) (k : SlotNo), s.linkUp → slot.toNat = k.val →
    (s.region? k = none → exec (.readdef slot) s = .next { s with reply := answerOf 3 .badstate }) ∧
    ∀ g ∈ s.region? k, ∀ p : DefineParams, ValidDefinition p → g.defn.holds p →
      ∃ data : List Byte,
        exec (.readdef slot) s = .next { s with reply := dataOf 3 data, freeCount := s.freeCount + 1 } ∧
        data.length = 26 ∧ g.defn.holds (defineParams data) ∧
        (defineParams data).flags.getLsbD 1 = g.defn.double.isSome ∧
        (defineParams data).flags.getLsbD 2 = g.defn.double.isSome ∧
        (g.defn.double = none → (defineParams data).bankB = 0 ∧ (defineParams data).sourceGroup.extractLsb' 0 2 = 0) ∧
        (g.defn.rotation = none → (defineParams data).head = 0 ∧ (defineParams data).body = 0 ∧
          (defineParams data).tail = 0 ∧ (defineParams data).autoStep = 0)

/-- UNDEFINE frees a DEFINED slot with its whole record, so that its conditions no longer hold ATTN high, and is answered ACK; on a
slot in any other state it is answered BADSTATE (R25). -/
def Obligations.UndefineFreesTheSlot : Prop :=
  ∀ (s : State) (slot : Byte) (k : SlotNo), s.linkUp → slot.toNat = k.val →
    (∀ g ∈ s.region? k, g.life = .defined → ∃ t, exec (.undefine slot) s = .next t ∧
      t = { s.putRegion k none with reply := answerOf 3 .ack } ∧ t.region? k = none ∧
      (t.attn = true ↔ (s.devConds &&& s.attnMask ≠ 0 ∨
        ∃ j, j ≠ k ∧ ∃ g' ∈ s.region? j, g'.conds &&& s.attnMask ≠ 0))) ∧
    ((∀ g ∈ s.region? k, g.life ≠ .defined) →
      exec (.undefine slot) s = .next { s with reply := answerOf 3 .badstate })

/-- ACTIVATE and ACTIVATE MATCHED of a DEFINED region: OVERLAP when it shares a line with another live region; otherwise NOSPACE when
a DOUBLE one asks more entries of the tracking pool than are free; neither changes anything else (R27, R28). -/
def Obligations.ActivateRefusals : Prop :=
  ∀ (s : State) (slot : Byte) (k : SlotNo) (g : Region) (c : Instr),
    s.linkUp → slot.toNat = k.val → s.region? k = some g → g.life = .defined →
    (c = .activate slot ∨ c = .activateMatched slot) →
    (s.clashing k g.defn → exec c s = .next { s with reply := answerOf 3 .overlap }) ∧
    (¬ s.clashing k g.defn → g.defn.double.isSome = true → 16384 < s.poolUsed + g.defn.size →
      exec c s = .next { s with reply := answerOf 3 .nospace })

/-- An activation that passes its checks (R29 to R31, R112): ACTIVE, HEALTHY, everything else of the runtime part at its start, the
rotation offset and step kept; a DOUBLE region starts in OPEN at generation 0 with front bank A, every line STALE (some already
taken by copy slots) under ACTIVATE and SYNC under ACTIVATE MATCHED. -/
def Obligations.ActivateResult : Prop :=
  ∀ (s : State) (slot : Byte) (k : SlotNo) (g : Region) (matched : Bool),
    s.linkUp → slot.toNat = k.val → s.region? k = some g → g.life = .defined → s.noWorkOf k →
    ¬ s.clashing k g.defn → (g.defn.double.isSome = true → s.poolUsed + g.defn.size ≤ 16384) →
    ∃ t g', exec (if matched then .activateMatched slot else .activate slot) s = .next t ∧
      t.reply = answerOf 3 .ack ∧ t.region? k = some g' ∧
      g'.life = .active ∧ g'.defn = g.defn ∧ g'.health = .healthy ∧ g'.score = 0 ∧ g'.missed = 0 ∧ g'.timeouts = 0 ∧
      g'.refused = 0 ∧ g'.lastDiscard = 0 ∧ g'.conds = 0 ∧ g'.rot = g.rot.map (fun x => { x with staged := none }) ∧
      (g.defn.double = none → g'.cycle = none) ∧
      (g.defn.double.isSome = true → ∃ c, g'.cycle = some c ∧ c.pub = .opened ∧ c.sealPending = false ∧ c.gen = 0 ∧
        c.front = .a ∧ c.readersA = 0 ∧ c.readersB = 0 ∧ c.writers = 0 ∧ c.dirty = 0 ∧ c.lines.length = g.defn.size ∧
        (matched = false → c.stale = g.defn.size ∧ ∀ l ∈ c.lines, l = .stale ∨ l = .copying) ∧
        (matched = true → c.stale = 0 ∧ ∀ l ∈ c.lines, l = .sync))

/-- RETIRE of an ACTIVE region (R36 to R38, R40, R107, R125): ACK; DEFINED with RETIRED exactly when nothing of the region is in
flight, RETIRING otherwise; its records and demand entries gone and counted as discarded, the records of others in their order; its
held transaction answered REFUSED; its copy slots marked ending; the replay unit keeps an issued write, lets a waiting record of
the region go and is then IDLE unless it has selected another eligible record, and keeps a waiting record of another region. -/
def Obligations.RetireResult : Prop :=
  ∀ (s : State) (slot : Byte) (k : SlotNo) (g : Region),
    s.linkUp → slot.toNat = k.val → s.region? k = some g → g.life = .active →
    ∃ t g', exec (.retire slot) s = .next t ∧ t.reply = answerOf 3 .ack ∧ t.region? k = some g' ∧
      (¬ s.nothingInFlight k →
        g'.life = .retiring ∧ g'.rot = g.rot ∧ g'.cycle.isSome = g.cycle.isSome ∧
          g'.conds = g.conds ||| (if s.notIssued k = 0 then 0 else 0x0080) ∧
          ∀ c ∈ g.cycle, ∀ c' ∈ g'.cycle, c'.pub = c.pub ∧ c'.sealPending = c.sealPending ∧ c'.gen = c.gen ∧
            c'.front = c.front) ∧
      (s.nothingInFlight k →
        g'.life = .defined ∧ g'.rot = g.rot.map (fun x => { x with staged := none }) ∧ g'.cycle = none ∧
          g'.conds = g.conds ||| (if s.notIssued k = 0 then 0 else 0x0080) ||| 0x0100) ∧
      g'.defn = g.defn ∧ g'.health = g.health ∧ g'.score = g.score ∧ g'.lastDiscard = s.notIssued k ∧
      (∀ r ∈ t.queue, r.region ≠ k) ∧ (∀ e ∈ t.demand, e.region ≠ k) ∧
      (s.queue.filter (·.region != k)).map (fun r => { r with selected := false }) <+:
        t.queue.map (fun r => { r with selected := false }) ∧
      (∀ u ∈ s.pTracker, u.isHeld = true → u.region = some k →
        { u with state := .done .refused [] } ∈ t.pTracker) ∧
      (∀ (j : Fin 4) x, s.slots[j] = .copying x → x.region = k → t.slots[j] = .copying { x with ending := true }) ∧
      (∀ k' w, s.replay = .issued k' w → t.replay = .issued k' w) ∧
      ∀ reason, s.replay = .waiting reason →
        ((∃ r ∈ s.queue, r.selected = true ∧ r.region = k) →
          t.replay = .idle ∨ ∃ r ∈ t.queue, r.selected = true ∧ t.replayable r) ∧
        ((∀ r ∈ s.queue, r.selected = true → r.region ≠ k) → t.replay ≠ .idle)

/-- REVIVE of an ACTIVE HALTED region (R67, R90, R152): HEALTHY with score 0, every line STALE (some already taken by copy slots), OPEN
or DRAINING by the draft bank's reader count; generation, front bank, counts of transactions, rotation, counters and conditions
are kept. -/
def Obligations.ReviveResult : Prop :=
  ∀ (s : State) (slot : Byte) (k : SlotNo) (g : Region) (c : Cycle),
    s.linkUp → slot.toNat = k.val → s.region? k = some g → g.life = .active → g.health = .fenced → g.cycle = some c →
    c.pub = .halted → s.noWorkOf k →
    ∃ t c', exec (.revive slot) s = .next t ∧ t.reply = answerOf 3 .ack ∧
      t.region? k = some { g with health := .healthy, score := 0, cycle := some c' } ∧
      c'.pub = (if c.readers c.front.other = 0 then .opened else .draining) ∧ c'.sealPending = false ∧
      c'.gen = c.gen ∧ c'.front = c.front ∧ c'.readersA = c.readersA ∧ c'.readersB = c.readersB ∧
      c'.writers = c.writers ∧ c'.dirty = 0 ∧ c'.lines.length = c.lines.length ∧ c'.stale = c.lines.length ∧
      (∀ l ∈ c'.lines, l = .stale ∨ l = .copying) ∧
      (c'.pub = .draining → ∀ l ∈ c'.lines, l = .stale)

/-- SCROLL stages an offset for an ACTIVE region and sets that of a DEFINED one, STEP sets the step; a value of B or more, or a region
without rotation, is answered BADARG (R137 to R139). -/
def Obligations.ScrollAndStep : Prop :=
  ∀ (s : State) (slot : Byte) (k : SlotNo) (g : Region) (v : BitVec 16),
    s.linkUp → slot.toNat = k.val → s.region? k = some g → g.life ≠ .retiring →
    (∀ r x, g.defn.rotation = some r → g.rot = some x → v.toNat < r.body →
      (g.life = .active → exec (.scroll slot v) s = .next
        { s.putRegion k (some { g with rot := some { x with staged := some v.toNat } }) with reply := answerOf 5 .ack }) ∧
      (g.life = .defined → exec (.scroll slot v) s = .next
        { s.putRegion k (some { g with rot := some { x with offset := v.toNat } }) with reply := answerOf 5 .ack }) ∧
      exec (.setStep slot v) s = .next
        { s.putRegion k (some { g with rot := some { x with step := v.toNat } }) with reply := answerOf 5 .ack }) ∧
    ((g.defn.rotation = none ∨ ∃ r ∈ g.defn.rotation, r.body ≤ v.toNat) →
      exec (.scroll slot v) s = .next { s with reply := answerOf 5 .badarg } ∧
      exec (.setStep slot v) s = .next { s with reply := answerOf 5 .badarg })

/-- STATUS answers ACK in every slot state with 28 bytes: the items of Table 10-5 where the slot holds them, 00h where it does not, and
changes no state (R174); the bits that carry no item are free (log 8). -/
def Obligations.StatusReportsTheRecord : Prop :=
  ∀ (s : State) (slot : Byte) (k : SlotNo), s.linkUp → slot.toNat = k.val →
    ∃ d : List Byte,
      exec (.status slot) s = .next { s with reply := dataOf 3 d, freeCount := s.freeCount + 1 } ∧ d.length = 28 ∧
      (s.region? k = none → d = List.replicate 28 0) ∧
      ∀ g ∈ s.region? k,
        d.getD 0 0 = (match g.life with | .defined => 1 | .active => 2 | .retiring => 3) ∧
        ((d.getD 1 0).getLsbD 0 = g.defn.double.isSome ∧ (d.getD 1 0).getLsbD 1 = true ∧
          (d.getD 1 0).getLsbD 2 = g.rot.isSome ∧ (d.getD 1 0).getLsbD 3 = g.rot.any (·.staged.isSome) ∧
          (d.getD 1 0).getLsbD 4 = g.cycle.isSome) ∧
        d.getD 2 0 = (match g.health with | .healthy => 0 | .warned => 1 | .fenced => 2) ∧
        be16 (d.getD 3 0) (d.getD 4 0) = BitVec.ofNat 16 g.score ∧
        (d.getD 5 0 = BitVec.ofNat 8 g.missed ∧ d.getD 6 0 = BitVec.ofNat 8 g.timeouts ∧
          d.getD 7 0 = BitVec.ofNat 8 g.refused ∧ d.getD 8 0 = BitVec.ofNat 8 g.lastDiscard) ∧
        be16 (d.getD 9 0) (d.getD 10 0) = g.conds ∧
        (∀ x ∈ g.rot, be16 (d.getD 11 0) (d.getD 12 0) = BitVec.ofNat 16 x.offset ∧
          be16 (d.getD 13 0) (d.getD 14 0) = BitVec.ofNat 16 (x.staged.getD 0) ∧
          be16 (d.getD 15 0) (d.getD 16 0) = BitVec.ofNat 16 x.step) ∧
        (g.rot = none → ∀ n < 6, d.getD (11 + n) 0 = 0) ∧
        (∀ c ∈ g.cycle,
          d.getD 17 0 = (match c.pub with
            | .opened => 0 | .sealWait => 1 | .isSealed => 2 | .draining => 3 | .halted => 4) ∧
          (d.getD 18 0).getLsbD 0 = c.sealPending ∧ (d.getD 18 0).getLsbD 1 = (c.front == .b) ∧
          be16 (d.getD 19 0) (d.getD 20 0) = c.gen ∧
          be16 (d.getD 21 0) (d.getD 22 0) = BitVec.ofNat 16 c.stale ∧
          be16 (d.getD 23 0) (d.getD 24 0) = BitVec.ofNat 16 c.dirty ∧
          d.getD 25 0 = BitVec.ofNat 8 c.readersA ∧ d.getD 26 0 = BitVec.ofNat 8 c.readersB ∧
          d.getD 27 0 = BitVec.ofNat 8 c.writers) ∧
        (g.cycle = none → ∀ n < 11, d.getD (17 + n) 0 = 0)

/-- PROBE of a slot with a line map answers the state of the line, the copy slot that holds it with phase, attempt and demanded flag, and
whose entry for it the demand list has; an index past the region is BADARG (R66, R175, Table 10-6). The spare bits are free
(log 8). -/
def Obligations.ProbeReportsTheLine : Prop :=
  ∀ (s : State) (slot : Byte) (k : SlotNo) (g : Region) (c : Cycle) (line : BitVec 16),
    s.linkUp → slot.toNat = k.val → s.region? k = some g → g.cycle = some c →
    (∀ l, c.lines[line.toNat]? = some l → ∃ d : List Byte,
      exec (.probe slot line) s = .next { s with reply := dataOf 5 d, freeCount := s.freeCount + 1 } ∧ d.length = 3 ∧
      d.getD 0 0 = (match l with | .sync => 0 | .dirty => 1 | .stale => 2 | .copying => 3) ∧
      (∀ (j : Fin 4) x, s.slots[j] = .copying x → x.region = k → x.line = line.toNat → 1 ≤ x.attempt → x.attempt ≤ 3 →
        (∀ (j' : Fin 4) x', s.slots[j'] = .copying x' → x'.region = k → x'.line = line.toNat → j' = j) →
        (d.getD 1 0).getLsbD 7 = true ∧ (d.getD 1 0).extractLsb' 0 2 = BitVec.ofNat 2 j.val ∧
        (d.getD 1 0).getLsbD 2 = (x.phase == .write) ∧ (d.getD 1 0).extractLsb' 3 2 = BitVec.ofNat 2 x.attempt ∧
        (d.getD 1 0).getLsbD 5 = x.demanded) ∧
      ((∀ (j : Fin 4) x, s.slots[j] = .copying x → ¬ (x.region = k ∧ x.line = line.toNat)) →
        (d.getD 1 0).getLsbD 7 = false) ∧
      ((∀ e ∈ s.demand, ¬ (e.region = k ∧ e.line = line.toNat)) → d.getD 2 0 = 0) ∧
      ∀ older e younger, s.demand = older ++ e :: younger → e.region = k → e.line = line.toNat →
        (∀ e' ∈ older, ¬ (e'.region = k ∧ e'.line = line.toNat)) →
        d.getD 2 0 = (match e.requester with | .pPath => 1 | .replay => 2)) ∧
    (c.lines.length ≤ line.toNat → exec (.probe slot line) s = .next { s with reply := answerOf 5 .badarg })

/-- CLEAR of a region clears the listed conditions; with counters it zeroes the counters and the discard count, and, unless the region
is HALTED, the score, which makes it HEALTHY; with slot byte FFh it clears the listed conditions of the device. A kind of the other
set, bits 13 to 15, an option of bits 1 to 7, or counters of the device are BADARG (R145, R178). -/
def Obligations.ClearRemovesTheListedConditions : Prop :=
  (∀ (s : State) (mask : Kinds) (options : Byte), s.linkUp →
    (mask &&& 0x1E00 = mask → options = 0 → exec (.clear 0xFF mask options) s = .next
      { s with devConds := s.devConds &&& ~~~mask, reply := answerOf 6 .ack }) ∧
    ((mask &&& 0x1E00 ≠ mask ∨ options ≠ 0) →
      exec (.clear 0xFF mask options) s = .next { s with reply := answerOf 6 .badarg })) ∧
  ∀ (s : State) (slot : Byte) (k : SlotNo) (g : Region) (mask : Kinds) (options : Byte),
    s.linkUp → slot.toNat = k.val → s.region? k = some g →
    (mask &&& 0x01FF = mask → options = 0 → exec (.clear slot mask options) s = .next
      { s.putRegion k (some { g with conds := g.conds &&& ~~~mask }) with reply := answerOf 6 .ack }) ∧
    (mask &&& 0x01FF = mask → options = 1 → (∀ c ∈ g.cycle, c.pub ≠ .halted) →
      exec (.clear slot mask options) s = .next
        { s.putRegion k (some
            { g with
              conds := g.conds &&& ~~~mask, missed := 0, timeouts := 0, refused := 0, lastDiscard := 0, score := 0
              health := .healthy }) with reply := answerOf 6 .ack }) ∧
    (mask &&& 0x01FF = mask → options = 1 → (∃ c ∈ g.cycle, c.pub = .halted) →
      exec (.clear slot mask options) s = .next
        { s.putRegion k (some
            { g with conds := g.conds &&& ~~~mask, missed := 0, timeouts := 0, refused := 0, lastDiscard := 0 })
          with reply := answerOf 6 .ack }) ∧
    ((mask &&& 0x01FF ≠ mask ∨ 2 ≤ options.toNat) →
      exec (.clear slot mask options) s = .next { s with reply := answerOf 6 .badarg })

/-! ### Device commands and frames -/

/-- DEVSTATUS answers ACK, during a soft reset too, with the 13 bytes of Table 10-7, ATTN among them as R180 gives it, and changes no
state (R176, R180); the spare bits are free (log 8). -/
def Obligations.DevstatusReportsTheDevice : Prop :=
  ∀ (s : State) (slot : Byte), s.resetn = true →
    ∃ d : List Byte,
      exec (.devstatus slot) s = .next { s with reply := dataOf 3 d, freeCount := s.freeCount + 1 } ∧ d.length = 13 ∧
      (d.getD 0 0).getLsbD 0 = s.softReset ∧
      ((d.getD 0 0).getLsbD 1 = true ↔ (s.devConds &&& s.attnMask ≠ 0 ∨
        ∃ j, ∃ g ∈ s.region? j, g.conds &&& s.attnMask ≠ 0)) ∧
      be16 (d.getD 1 0) (d.getD 2 0) = BitVec.ofNat 16 s.poolUsed ∧
      d.getD 3 0 = BitVec.ofNat 8 s.queue.length ∧
      d.getD 4 0 = BitVec.ofNat 8 (s.slots.toList.filter (· ≠ .free)).length ∧
      be16 (d.getD 5 0) (d.getD 6 0) = s.devConds ∧ be16 (d.getD 7 0) (d.getD 8 0) = BitVec.ofNat 16 s.holdLimit ∧
      d.getD 9 0 = BitVec.ofNat 8 s.floor ∧ d.getD 10 0 = (if s.refuseUnmatched then 1 else 0) ∧
      be16 (d.getD 11 0) (d.getD 12 0) = s.attnMask

/-- POLICY sets all four values in one happening and lowers a passed-over count to the new floor less one; a value out of its range is
BADARG and changes none (R165, R181). -/
def Obligations.PolicySetsAllFour : Prop :=
  ∀ (s : State) (slot : Byte) (hold : BitVec 16) (floor unmatched : Byte) (mask : Kinds), s.linkUp →
    ((1 ≤ hold.toNat ∧ (2 ≤ floor.toNat ∧ floor.toNat ≤ 16) ∧ unmatched.toNat ≤ 1 ∧ mask &&& 0x1FFF = mask) →
      exec (.policy slot hold floor unmatched mask) s = .next
        { s with
          holdLimit := hold.toNat, floor := floor.toNat, refuseUnmatched := unmatched == 1, attnMask := mask
          pPassed := min s.pPassed (floor.toNat - 1), cPassed := min s.cPassed (floor.toNat - 1)
          reply := answerOf 9 .ack }) ∧
    ((hold = 0 ∨ floor.toNat < 2 ∨ 16 < floor.toNat ∨ 1 < unmatched.toNat ∨ mask &&& 0x1FFF ≠ mask) →
      exec (.policy slot hold floor unmatched mask) s = .next { s with reply := answerOf 9 .badarg })

/-- A command byte outside Table 10-2 is answered BADCMD, during a soft reset too; a frame that ends before its command is taken sets
LINK_ERROR and executes nothing (R171, R172). That it drops the reply of the frame before is the model's reading of R169
(log 13). -/
def Obligations.FramesThatAreNoCommand : Prop :=
  ∀ s : State, s.resetn = true →
    (∀ code slot : Byte, paramCount code = none →
      exec (.unknownCommand code slot) s = .next { s with reply := answerOf 3 .badcmd }) ∧
    ∀ bits : List Bool, bits ≠ [] → (bits.length < 8 ∨ bits.length < 8 * takenAfter (byteOfBits (bits.take 8))) →
      exec (.truncatedFrame bits) s = .next { s with reply := none, devConds := s.devConds ||| 0x0800 }

/-- The frames of the link. Every well-formed command that a frame spells is read back from its bytes, whatever follows them on MDI,
and from their bits, most significant first. MDO reads 00h up to the turnaround byte, then the result code, then the response
data, then 00h; and every step keeps that a result other than ACK has no data (R169 to R171, Tables 10-1, 10-2, 10-4, 10-8). -/
def Obligations.FramesAreReadBack : Prop :=
  (∀ (i : Instr) (bytes : List Byte), i.wellFormed = true → encodeFrame i = some bytes →
    (∀ rest : List Byte, decodeBytes (bytes ++ rest) = some i) ∧
    decodeFrame (bytes.flatMap bitsOfByte) = some i) ∧
  (∀ (s : State) (r : Reply), s.reply = some r →
    (∀ n < r.lead, s.mdo n = 0) ∧
    s.mdo r.lead = (match r.result with
      | .ack => 1 | .busy => 2 | .badarg => 3 | .badstate => 4 | .overlap => 5 | .nospace => 6 | .badcmd => 7) ∧
    (∀ n b, r.data[n]? = some b → s.mdo (r.lead + 1 + n) = b) ∧
    ∀ n, r.lead + r.data.length < n → s.mdo n = 0) ∧
  (∀ (s : State) (n : Nat), s.reply = none → s.mdo n = 0) ∧
  ∀ s t : State, s.replyAgrees → step s = .next t → t.replyAgrees

/-! ### Requests (Chapter 1) -/

/-- A request that its port cannot accept, a response that is not offered and an M response with nothing outstanding leave no trace
(R2, R4, R160); the sender offers them again (log 3). -/
def Obligations.UntakenOffersLeaveNoTrace : Prop :=
  ∀ s : State,
    (∀ port req, ¬ s.canAccept port → exec (.requestAcceptance port req) s = .next s) ∧
    (∀ port, (∀ t ∈ (s.tracker port).head?, ∀ status data, t.state ≠ .done status data) →
      exec (.responseTaken port) s = .next s) ∧
    (s.outstanding = [] → ∀ status data, exec (.mResponse status data) s = .next s) ∧
    (s.mRequest = none → exec .memoryTakesRequest s = .next s)

/-- A burst that crosses a line is answered BOUNDARY before anything else is looked at: only its record is new (R5). -/
def Obligations.CrossingBurstIsAnsweredBoundary : Prop :=
  ∀ (s : State) (port : Port) (req : Request), s.canAccept port → ¬ withinLine req →
    exec (.requestAcceptance port req) s = .next (s.addTx port req none none none (.done .boundary []) none)

/-- An access that matches no window is REFUSED with UNMATCHED_REFUSED when it lies in a guarded bank or under REFUSE, and goes
unchanged to its own address under PASS (R6 to R8). -/
def Obligations.UnmatchedAccesses : Prop :=
  ∀ (s : State) (port : Port) (req : Request), s.canAccept port → withinLine req → s.unmatched req →
    (s.inGuardedBank req ∨ s.refuseUnmatched = true → exec (.requestAcceptance port req) s = .next
      { s.addTx port req none none none (.done .refused []) none with devConds := s.devConds ||| 0x0200 }) ∧
    (¬ s.inGuardedBank req → s.refuseUnmatched = false → exec (.requestAcceptance port req) s = .next
      (s.addTx port req none none (some req.addr) .accepted none).settle)

/-- Writes that are answered at once: an S write in a region and a P write the writer filter rejects are REFUSED and counted, a P write
that passes the filter of a HALTED region is FENCED and counted nowhere (R9, R10, R32, R179). That such an access records its
region and no bank is log 19. -/
def Obligations.WritesAnsweredAtOnce : Prop :=
  ∀ (s : State) (port : Port) (req : Request) (k : SlotNo) (g : Region),
    s.canAccept port → withinLine req → s.matches req k g → req.kind = .write →
    (port = .s ∨ (port = .p ∧ ¬ g.defn.passesTag req.tag) → exec (.requestAcceptance port req) s = .next
      ((s.addTx port req (some k) none none (.done .refused []) none).putRegion k (some
        { g with refused := if g.refused < 255 then g.refused + 1 else g.refused, conds := g.conds ||| 0x0008 }))) ∧
    (port = .p → g.defn.passesTag req.tag → (∃ c ∈ g.cycle, c.pub = .halted) →
      exec (.requestAcceptance port req) s = .next (s.addTx .p req (some k) none none (.done .fenced []) none))

/-- A single region: P accesses go unrotated, S reads rotated, to bank A and enter no count (R9, R10, R33, R34, R131). -/
def Obligations.SingleRegionAccesses : Prop :=
  ∀ (s : State) (port : Port) (req : Request) (k : SlotNo) (g : Region),
    s.canAccept port → withinLine req → s.matches req k g → g.cycle = none →
    (port = .p → (req.kind = .read ∨ g.defn.passesTag req.tag) → exec (.requestAcceptance port req) s = .next
      (s.addTx .p req (some k) (some .a) (some (g.defn.bankA + (req.addr - g.defn.window))) .accepted none).settle) ∧
    (port = .s → req.kind = .read → exec (.requestAcceptance port req) s = .next
      (s.addTx .s req (some k) (some .a) (some (scanTarget g g.defn.bankA req)) .accepted none).settle)

/-- Reads of a double region. An S read goes to the bank that is front at its acceptance, through the rotation mapping. A P read is held
OVERLAP when it shares a byte with a queued record of the region, unless the region is HALTED; otherwise it goes to the bank of
Table 3-3. A read that has its bank enters that bank's reader count (R9, R15, R48, R62, R65, R100, R131). -/
def Obligations.ReadsOfADoubleRegion : Prop :=
  ∀ (s : State) (port : Port) (req : Request) (k : SlotNo) (g : Region) (c : Cycle),
    s.canAccept port → withinLine req → s.matches req k g → g.cycle = some c → req.kind = .read →
    (port = .s → ∀ bank, bank = c.front → exec (.requestAcceptance .s req) s = .next
      ((s.addTx .s req (some k) (some bank) (some (scanTarget g (g.defn.bankBase bank) req)) .accepted
        (some (.reader bank))).putRegion k (some (g.withCycle (c.enter (.reader bank))))).settle) ∧
    (port = .p → c.pub ≠ .halted → s.overlapped k g.defn req → exec (.requestAcceptance .p req) s = .next
      (s.addTx .p req (some k) none none (.held .overlap 0 s.holdLimit) none).settle) ∧
    (port = .p → (c.pub = .halted ∨ ¬ s.overlapped k g.defn req) →
      ∀ bank, bank = readLands c (g.defn.lineOf req.addr) → exec (.requestAcceptance .p req) s = .next
        ((s.addTx .p req (some k) (some bank) (some (g.defn.bankBase bank + (req.addr - g.defn.window))) .accepted
          (some (.reader bank))).putRegion k (some (g.withCycle (c.enter (.reader bank))))).settle)

/-- Table 3-4: a direct draft write, to an OPEN region without queued records. It goes to the draft bank and makes its line DIRTY, a
full-line write on a STALE line too; a partial write on a STALE line is held DEMAND with a demand entry, any write on a COPYING
line is held COPYING; in every case it enters the draft writer count (R15, R51 to R54, R63, R120). That a held write records the
draft bank at the hold is log 19. -/
def Obligations.DirectDraftWrites : Prop :=
  ∀ (s : State) (req : Request) (k : SlotNo) (g : Region) (c : Cycle) (line : Nat) (l : LineState),
    s.canAccept .p → withinLine req → s.matches req k g → g.cycle = some c → req.kind = .write →
    g.defn.passesTag req.tag → c.pub = .opened → (∀ r ∈ s.queue, r.region ≠ k) →
    line = (req.addr - g.defn.window) / 64 → c.lines[line]? = some l →
    ((l = .sync ∨ l = .dirty ∨ (l = .stale ∧ isFullLine req)) → exec (.requestAcceptance .p req) s = .next
      { (s.addTx .p req (some k) (some c.front.other)
            (some (g.defn.bankBase c.front.other + (req.addr - g.defn.window))) .accepted (some .writer)).putRegion k
          (some (g.withCycle { c.dirtied line with writers := c.writers + 1 }))
        with demand := s.demand.filter fun e => !(e.region == k && e.line == line) }.settle) ∧
    (l = .stale → ¬ isFullLine req → exec (.requestAcceptance .p req) s = .next
      { (s.addTx .p req (some k) (some c.front.other) none (.held .demand 0 s.holdLimit) (some .writer)).putRegion k
          (some (g.withCycle { c with writers := c.writers + 1 })) with demand := s.demandOfP k line }.settle) ∧
    (l = .copying → exec (.requestAcceptance .p req) s = .next
      ((s.addTx .p req (some k) (some c.front.other) none (.held .copying 0 s.holdLimit) (some .writer)).putRegion k
        (some (g.withCycle { c with writers := c.writers + 1 }))).settle)

/-- A P write that cannot go to the draft directly is posted with the target generation of the publish state and answered OKAY, or held
QUEUE when the queue holds 32 records; it enters no count (R14, R15, R51, R96 to R98). That it records its region and no bank is
log 19. -/
def Obligations.PostedWrites : Prop :=
  ∀ (s : State) (req : Request) (k : SlotNo) (g : Region) (c : Cycle),
    s.canAccept .p → withinLine req → s.matches req k g → g.cycle = some c → req.kind = .write →
    g.defn.passesTag req.tag → c.pub ≠ .halted → (c.pub ≠ .opened ∨ ∃ r ∈ s.queue, r.region = k) →
    (s.queue.length < 32 → exec (.requestAcceptance .p req) s = .next
      { s.addTx .p req (some k) none none (.done .okay []) none with
        queue := s.queue ++ [postedRecord k g c req] }.settle) ∧
    (32 ≤ s.queue.length → exec (.requestAcceptance .p req) s = .next
      (s.addTx .p req (some k) none none (.held .queue 0 s.holdLimit) none).settle)

/-- When the master takes the response its port offers, the record leaves the tracker and the count it entered goes down by one
(R4, R62, R63). -/
def Obligations.ResponseTakenLeavesTheCount : Prop :=
  ∀ (s : State) (port : Port) (t : Tx) (rest : List Tx) (status : Status) (data : List Word),
    s.resetn = true → s.tracker port = t :: rest → t.state = .done status data →
    (t.count = none → exec (.responseTaken port) s = .next (s.setTracker port rest).settle) ∧
    ∀ k g c, t.region = some k → s.region? k = some g → g.cycle = some c →
      (t.count = some (.reader .a) → exec (.responseTaken port) s = .next
        ((s.setTracker port rest).putRegion k (some (g.withCycle { c with readersA := c.readersA - 1 }))).settle) ∧
      (t.count = some (.reader .b) → exec (.responseTaken port) s = .next
        ((s.setTracker port rest).putRegion k (some (g.withCycle { c with readersB := c.readersB - 1 }))).settle) ∧
      (t.count = some .writer → exec (.responseTaken port) s = .next
        ((s.setTracker port rest).putRegion k (some (g.withCycle { c with writers := c.writers - 1 }))).settle)

/-! ### Holds and the time base -/

/-- HOLD_RELEASE: the owner of the hold reason releases the held P transaction once its reason has passed, and not before: a DEMAND or
COPYING write to the draft when its line is copied, a QUEUE write to the queue when there is a place, an OVERLAP read anew by
R48 when nothing overlaps it (R16, R50, R55, R98, R101). That this act of the part can be commanded by itself is log 2. -/
def Obligations.HoldReleaseByReason : Prop :=
  ∀ (s : State) (older : List Tx) (t : Tx) (reason : HoldReason) (age limit : Nat) (k : SlotNo) (g : Region) (c : Cycle)
    (line : Nat) (l : LineState),
    s.resetn = true → s.holdsYoungest older t reason age limit → t.region = some k → s.region? k = some g →
    g.cycle = some c → line = g.defn.lineOf t.req.addr → c.lines[line]? = some l →
    (reason = .demand ∨ reason = .copying → (l = .sync ∨ l = .dirty) → exec .holdRelease s = .next
      { s.putRegion k (some (g.withCycle (c.dirtied line))) with
        pTracker := older ++ [{ t with
          state := .accepted, bank := some c.front.other
          phys := some (g.defn.bankBase c.front.other + (t.req.addr - g.defn.window)) }] }) ∧
    (reason = .demand ∨ reason = .copying → (l = .stale ∨ l = .copying) → exec .holdRelease s = .next s) ∧
    (reason = .queue → s.queue.length < 32 → exec .holdRelease s = .next
      { s with
        queue := s.queue ++ [postedRecord k g c t.req], pTracker := older ++ [{ t with state := .done .okay [] }] }) ∧
    (reason = .queue → 32 ≤ s.queue.length → exec .holdRelease s = .next s) ∧
    (reason = .overlap → s.overlapped k g.defn t.req → exec .holdRelease s = .next s) ∧
    (reason = .overlap → ¬ s.overlapped k g.defn t.req → ∀ bank, bank = readLands c line → exec .holdRelease s = .next
      { s.putRegion k (some (g.withCycle (c.enter (.reader bank)))) with
        pTracker := older ++ [{ t with
          state := .accepted, bank := some bank, phys := some (g.defn.bankBase bank + (t.req.addr - g.defn.window))
          count := some (.reader bank) }] })

/-- TIME_BASE_ADVANCE adds a microsecond to the time base and to the age of the held transaction; at its captured limit the hold expires:
TIMEOUT, counted in its region, with the TIMEOUT condition (R17). HOLD_EXPIRY by itself expires a hold at its limit. That the expiry is
part of the advance is log 7, that it can be commanded by itself log 2. -/
def Obligations.TimeAndHoldExpiry : Prop :=
  ∀ s : State, s.resetn = true →
    ((∀ u ∈ s.pTracker, u.isHeld = false) →
      exec .timeBaseAdvance s = .next { s with timeBase := s.timeBase + 1 } ∧ exec .holdExpiry s = .next s) ∧
    ∀ older t reason age limit k g, s.holdsYoungest older t reason age limit → t.region = some k → s.region? k = some g →
      (age + 1 < limit → exec .timeBaseAdvance s = .next
        { s with
          timeBase := s.timeBase + 1, pTracker := older ++ [{ t with state := .held reason (age + 1) limit }] }) ∧
      (limit ≤ age + 1 → exec .timeBaseAdvance s = .next
        { s.putRegion k (some
            { g with
              timeouts := if g.timeouts < 255 then g.timeouts + 1 else g.timeouts, conds := g.conds ||| 0x0004 }) with
          timeBase := s.timeBase + 1, pTracker := older ++ [{ t with state := .done .timeout [] }] }) ∧
      (age < limit → exec .holdExpiry s = .next s) ∧
      (limit ≤ age → exec .holdExpiry s = .next
        { s.putRegion k (some
            { g with
              timeouts := if g.timeouts < 255 then g.timeouts + 1 else g.timeouts, conds := g.conds ||| 0x0004 }) with
          pTracker := older ++ [{ t with state := .done .timeout [] }] })

/-! ### The memory port (Chapter 9) -/

/-- At each grant the arbiter chooses by the floor and the passed-over counts among the requesters that present (R163). -/
def Obligations.GrantFollowsTheFloorRule : Prop :=
  ∀ s : State, s.resetn = true → s.outstanding.length < 8 → s.mRequest = none → 2 ≤ s.floor →
    (∀ e ∈ s.presented, s.engineRequest e ≠ none) →
    ((s.presents .p).isSome ∨ s.presented.isSome ∨ (s.presents .s).isSome) →
    ∃ t o, exec .arbiterGrant s = .next t ∧ t.outstanding = s.outstanding ++ [o] ∧
      -- 1. the P path at floor - 1 or more
      ((s.presents .p).isSome → s.floor - 1 ≤ s.pPassed → (∃ n, o.owner = .port .p n) ∧
        -- the copy engine, if it has reached floor - 1 too, wins the grant after it
        (s.presented.isSome → s.floor - 1 ≤ s.cPassed → s.floor - 1 < t.cPassed ∧ t.pPassed < s.floor - 1 ∧
          ∀ p q, chooseGrant s.floor t.pPassed t.cPassed p true q = some .engine)) ∧
      (((s.presents .p).isNone ∨ s.pPassed < s.floor - 1) →
        -- 2. the copy engine at floor - 1 or more
        (s.presented.isSome → s.floor - 1 ≤ s.cPassed → ∃ e, o.owner = .engine e) ∧
        ((s.presented.isNone ∨ s.cPassed < s.floor - 1) →
          -- 3. the S path, 4. the P path, 5. the copy engine
          ((s.presents .s).isSome → ∃ n, o.owner = .port .s n) ∧
          ((s.presents .s).isNone → (s.presents .p).isSome → ∃ n, o.owner = .port .p n) ∧
          ((s.presents .s).isNone → (s.presents .p).isNone → ∃ e, o.owner = .engine e)))

/-- What a grant sends and changes: the request on the M request channel, its entry at the young end of the outstanding list, the
transaction ISSUED or the engine's request gone from its ready ones with the next presented, and the passed-over counts (R11,
R119, R158, R159, R162, R164). While a granted request waits for the memory, while the list holds 8 entries and while nobody presents,
nothing is granted and nothing changes; in every other case somebody is granted. The engine's requests: a slot in READ phase reads its line
from the source bank, one in WRITE phase writes its line buffer to the target bank, a replay write goes as it was issued, each with
tag 3Fh (R104, R116). That the grant can be commanded by itself is log 2. -/
def Obligations.GrantSendsTheRequest : Prop :=
  ∀ s : State, s.resetn = true →
    (s.mRequest ≠ none ∨ 8 ≤ s.outstanding.length ∨
        (s.presented = none ∧ (∀ t ∈ s.pTracker, t.state ≠ .accepted) ∧ ∀ t ∈ s.sTracker, t.state ≠ .accepted) →
      s.grantee = none) ∧
    (s.mRequest = none → s.outstanding.length < 8 →
      s.presented ≠ none ∨ (∃ t ∈ s.pTracker, t.state = .accepted) ∨ (∃ t ∈ s.sTracker, t.state = .accepted) →
      s.grantee ≠ none) ∧
    (s.grantee = none → exec .arbiterGrant s = .next s) ∧
    (∀ older t younger, s.grantee = some .p → s.pTracker = older ++ t :: younger → (∀ u ∈ older, u.state ≠ .accepted) →
      t.state = .accepted → (∀ u ∈ older ++ younger, u.place ≠ t.place) → ∀ addr, t.phys = some addr →
      exec .arbiterGrant s = .next
        { s with
          pTracker := older ++ { t with state := .issued } :: younger
          mRequest := some
            { kind := t.req.kind, addr := addr, length := t.req.length, enables := t.req.enables, data := t.req.data
              tag := t.req.tag }
          outstanding := s.outstanding ++ [{ owner := .port .p t.place, kind := t.req.kind, length := t.req.length }]
          pPassed := 0, cPassed := if s.presented.isSome then s.cPassed + 1 else 0 }) ∧
    (∀ older t younger, s.grantee = some .s → s.sTracker = older ++ t :: younger → (∀ u ∈ older, u.state ≠ .accepted) →
      t.state = .accepted → (∀ u ∈ older ++ younger, u.place ≠ t.place) → ∀ addr, t.phys = some addr →
      exec .arbiterGrant s = .next
        { s with
          sTracker := older ++ { t with state := .issued } :: younger
          mRequest := some
            { kind := t.req.kind, addr := addr, length := t.req.length, enables := t.req.enables, data := t.req.data
              tag := t.req.tag }
          outstanding := s.outstanding ++ [{ owner := .port .s t.place, kind := t.req.kind, length := t.req.length }]
          pPassed := if (s.presents .p).isSome then s.pPassed + 1 else 0
          cPassed := if s.presented.isSome then s.cPassed + 1 else 0 }) ∧
    (∀ e w, s.grantee = some .engine → s.presented = some e → s.engineRequest e = some w → s.readyNow = [] →
      exec .arbiterGrant s = .next
        { s with
          mRequest := some w
          outstanding := s.outstanding ++ [{ owner := .engine e, kind := w.kind, length := w.length }]
          ready := s.ready.filter (· != e)
          presented := ((s.ready.filter (· != e)).find? s.demandedReq).or (s.ready.filter (· != e)).head?
          pPassed := if (s.presents .p).isSome then s.pPassed + 1 else 0
          cPassed := 0 }) ∧
    (∀ k w, s.replay = .issued k w → s.engineRequest .replay = some w) ∧
    ∀ (j : Fin 4) x g, s.slots[j] = .copying x → s.region? x.region = some g →
      (x.phase = .read → s.engineRequest (.slot j) = some
        { kind := .read, addr := g.defn.bankBase x.source + 64 * x.line, length := 16, enables := [], data := []
          tag := 0x3F }) ∧
      (x.phase = .write → s.engineRequest (.slot j) = some
        { kind := .write, addr := g.defn.bankBase x.target + 64 * x.line, length := 16
          enables := List.replicate 16 0xF, data := x.buffer, tag := 0x3F })

/-- With a floor of f and all three requesters presenting at every grant, the grants fall into periods of f: f - 2 for the S path, one for
the P path, one for the copy engine; so none of the two is passed over more than f times (R164, R165). -/
def Obligations.GrantsFallIntoPeriodsOfTheFloor : Prop :=
  ∀ f n, 2 ≤ f →
    grantsTo f (f + 1 + f * n) 0 0 =
      List.replicate (f - 1) .s ++ [.p, .engine] ++
        (List.replicate n (List.replicate (f - 2) Position.s ++ [.p, .engine])).flatten ∧
    ∀ p c, p < f → c ≤ f → (c = f → p = 0) → .p ∈ grantsTo f f p c ∧ .engine ∈ grantsTo f (f + 1) p c

/-- The memory takes the granted request: the channel is free for the next grant, which is part of the same happening (R158, R162). -/
def Obligations.MemoryTakesTheRequest : Prop :=
  ∀ (s : State) (w : MRequest), s.resetn = true → s.mRequest = some w →
    exec .memoryTakesRequest s = .next { s with mRequest := none }.settle

/-- An M response for an ISSUED transaction of a port: DONE with OKAY and the words read, or DONE with MEMERR and a report to its region
(UNMATCHED_MEMERR for a passed access), which may fence it once it is applied; for a transaction answered RESET it is discarded (R13, R20, R143 to
R146, R160). That data of another length than the request's is cut to it is log 12. -/
def Obligations.MResponseToAPort : Prop :=
  ∀ (s : State) (port : Port) (place : Nat) (kind : Kind) (len : Nat) (rest : List Outstanding) (data : List Word),
    s.resetn = true → s.outstanding = { owner := .port port place, kind := kind, length := len } :: rest →
    ((∀ u ∈ s.tracker port, ¬ (u.place = place ∧ u.state = .issued)) →
      ∀ status, exec (.mResponse status data) s = .next { s with outstanding := rest }.settle) ∧
    ∀ older t younger u, s.tracker port = older ++ t :: younger → t.place = place → t.state = .issued →
      (∀ v ∈ older ++ younger, v.place ≠ place) →
      u = { s with outstanding := rest }.setTracker port (older ++ { t with state := .done .memerr [] } :: younger) →
      exec (.mResponse .okay data) s = .next
        (State.setTracker { s with outstanding := rest } port
          (older ++
            { t with state := .done .okay (if t.req.kind = .read then data.take t.req.length else []) } :: younger)).settle ∧
      (t.region = none → exec (.mResponse .error data) s = .next { u with devConds := s.devConds ||| 0x0400 }.settle) ∧
      ∀ k g, t.region = some k → s.region? k = some g →
        (¬ g.fencesAt → exec (.mResponse .error data) s = .next (u.putRegion k (some g.afterReport)).settle) ∧
        (g.fencesAt → exec (.mResponse .error data) s = .next ((u.putRegion k (some g.afterReport)).fence k).settle)

/-- What a fence changes, in every block (R89, R108, R124, R147, R148): the record FENCED, HALTED with score 256 and its lines in copy slots
back to STALE; its queue records and demand entries gone and counted; its copy slots finishing or free, their ready requests
withdrawn; its held transaction answered FENCED; everything else kept. That the step to 256 leaves WARNED as it was is log 9, that the discard count
of a RETIRING region is replaced log 14. -/
def Obligations.FenceChangesEveryBlock : Prop :=
  ∀ (s : State) (k : SlotNo) (g : Region) (c : Cycle), s.region? k = some g → g.cycle = some c →
    (s.fence k).region? k = some
      { g with
        health := .fenced, score := 256, lastDiscard := s.notIssued k
        conds := g.conds ||| 0x0050 ||| (if s.notIssued k = 0 then 0 else 0x0080)
        cycle := some
          { c with
            pub := .halted, sealPending := false
            lines := c.lines.map fun l => if l = .copying then .stale else l } } ∧
    (∀ j, j ≠ k → (s.fence k).region? j = s.region? j) ∧
    (s.fence k).queue = s.queue.filter (·.region != k) ∧
    (s.fence k).demand = s.demand.filter (·.region != k) ∧
    (s.fence k).replay = (match s.replay with
      | .waiting w => if s.queue.any (fun r => r.selected && r.region == k) then .idle else .waiting w
      | r => r) ∧
    (s.fence k).pTracker = s.pTracker.map (fun t =>
      if t.isHeld = true ∧ t.region = some k then { t with state := .done .fenced [] } else t) ∧
    (∀ (j : Fin 4) x, s.slots[j] = .copying x → x.region = k → (s.fence k).slots[j] =
      if s.outstanding.any (fun o => o.owner == .engine (.slot j)) then .finishing k x.phase else .free) ∧
    (∀ j : Fin 4, (∀ x, s.slots[j] = .copying x → x.region ≠ k) → (s.fence k).slots[j] = s.slots[j]) ∧
    (∀ e ∈ (s.fence k).ready, ∀ (j : Fin 4) x, e = .slot j → s.slots[j] = .copying x → x.region ≠ k) ∧
    (∀ e ∈ (s.fence k).presented, ∀ (j : Fin 4) x, e = .slot j → s.slots[j] = .copying x → x.region ≠ k) ∧
    (∀ stays : EngineReq → Bool,
      (∀ e, stays e = true ↔ ∀ (j : Fin 4) x, e = .slot j → s.slots[j] = .copying x → x.region ≠ k) →
      (s.fence k).ready = s.ready.filter stays ∧ (s.fence k).readyNow = s.readyNow.filter stays ∧
      (s.fence k).presented = s.presented.filter stays) ∧
    (s.fence k).sTracker = s.sTracker ∧ (s.fence k).outstanding = s.outstanding ∧ (s.fence k).mRequest = s.mRequest ∧
    (s.fence k).devConds = s.devConds ∧ (s.fence k).frame = s.frame ∧ (s.fence k).rrPtr = s.rrPtr ∧
    (s.fence k).pPassed = s.pPassed ∧ (s.fence k).cPassed = s.cPassed ∧ (s.fence k).softReset = s.softReset ∧
    (s.fence k).timeBase = s.timeBase

/-- An M response for a copy slot: a read OKAY fills the line buffer and makes the write ready, a write OKAY ends the copy; an ERROR is
reported and retried at attempt 1 and 2, and at attempt 3 reported and fenced, WARNED set where the report crosses 96; a slot with the ending mark gives its line back, a FINISHING
one is freed, whatever the status (R60, R116, R117, R122 to R125, R143 to R146, R160). That data of another length than 16 words is cut to them is
log 12. -/
def Obligations.MResponseToACopySlot : Prop :=
  ∀ (s : State) (j : Fin 4) (kind : Kind) (len : Nat) (rest : List Outstanding) (data : List Word),
    s.resetn = true → s.outstanding = { owner := .engine (.slot j), kind := kind, length := len } :: rest →
    s.readyNow = [] →
    (∀ k ph status, s.slots[j] = .finishing k ph → exec (.mResponse status data) s = .next
      { s with outstanding := rest, slots := s.slots.set j .free }.settle) ∧
    ∀ x g c, s.slots[j] = .copying x → s.region? x.region = some g → g.cycle = some c →
      c.lines[x.line]? = some .copying →
      (∀ status, x.ending = true → exec (.mResponse status data) s = .next
        ({ s with outstanding := rest, slots := s.slots.set j .free }.putRegion x.region
          (some (g.withCycle { c with lines := c.lines.set x.line .stale }))).settle) ∧
      (x.ending = false → x.phase = .read → exec (.mResponse .okay data) s = .next
        { s with
          outstanding := rest, readyNow := [.slot j]
          slots := s.slots.set j (.copying { x with phase := .write, buffer := data.take 16 }) }.settle) ∧
      (x.ending = false → x.phase = .write → exec (.mResponse .okay data) s = .next
        ({ s with outstanding := rest, slots := s.slots.set j .free }.putRegion x.region
          (some (g.withCycle { c with lines := c.lines.set x.line .sync, stale := c.stale - 1 }))).settle) ∧
      (x.ending = false → g.life ≠ .defined → g.health ≠ .fenced → x.attempt < 3 → ¬ g.fencesAt →
        exec (.mResponse .error data) s = .next
          { State.putRegion { s with outstanding := rest } x.region (some g.afterReport) with
            readyNow := [.slot j]
            slots := s.slots.set j (.copying { x with attempt := x.attempt + 1, phase := .read, buffer := [] }) }.settle) ∧
      (x.ending = false → g.life ≠ .defined → g.health ≠ .fenced → 3 ≤ x.attempt ∨ g.fencesAt →
        exec (.mResponse .error data) s = .next
          (State.fence (State.putRegion { s with outstanding := rest } x.region (some g.afterReport)) x.region).settle)

/-- An M response for a replay write: the record leaves the queue and the unit is IDLE; an ERROR is reported to the record's region and may fence it; when
the record has been removed already the result is ignored (R38, R105, R108, R109, R160). -/
def Obligations.MResponseToTheReplayUnit : Prop :=
  ∀ (s : State) (kind : Kind) (len : Nat) (rest : List Outstanding) (data : List Word) (k : SlotNo) (w : MRequest) (u : State),
    s.resetn = true → s.outstanding = { owner := .engine .replay, kind := kind, length := len } :: rest →
    s.replay = .issued k w →
    u = { s with outstanding := rest, replay := .idle, queue := s.queue.filter fun r => !r.selected } →
    exec (.mResponse .okay data) s = .next u.settle ∧
    ((∀ r ∈ s.queue, r.selected = false) → exec (.mResponse .error data) s = .next u.settle) ∧
    ((∃ r ∈ s.queue, r.selected = true) → ∀ g, s.region? k = some g →
      (¬ g.fencesAt → exec (.mResponse .error data) s = .next (u.putRegion k (some g.afterReport)).settle) ∧
      (g.fencesAt → exec (.mResponse .error data) s = .next ((u.putRegion k (some g.afterReport)).fence k).settle))

/-! ### The copy engine and the replay unit (Chapters 5, 6) -/

/-- COPY_TAKE: the lowest-numbered FREE slot takes the first line of the demand list that is catch-up work, or else the lowest such line of
the first region with work after the round-robin pointer, which then moves there; with no FREE slot or no work nothing is
taken (R111 to R115, R60). That one take can be commanded by itself is log 2. -/
def Obligations.CopyTakeOrder : Prop :=
  ∀ s : State, s.resetn = true → s.readyNow = [] →
    ((∀ j : Fin 4, s.slots[j] ≠ .free) ∨ (∀ k line, ¬ s.catchUp k line) → exec .copyTake s = .next s) ∧
    ∀ j : Fin 4, s.slots[j] = .free → (∀ i < j, s.slots[i] ≠ .free) → ∀ k line g c, s.region? k = some g →
      g.cycle = some c → s.catchUp k line →
      (∀ older e younger, s.demand = older ++ e :: younger → (∀ e' ∈ older, ¬ s.catchUp e'.region e'.line) →
        e.region = k → e.line = line → exec .copyTake s = .next (s.afterTake j k line g c)) ∧
      ((∀ e ∈ s.demand, ¬ s.catchUp e.region e.line) → (∀ i < line, ¬ s.catchUp k i) →
        (∀ k' i, distance s.rrPtr k' < distance s.rrPtr k → ¬ s.catchUp k' i) →
        exec .copyTake s = .next { s.afterTake j k line g c with rrPtr := k })

/-- REPLAY_SELECT: the IDLE unit selects the oldest eligible record and issues it or waits with a reason; REPLAY_ISSUE: the WAITING unit
does the same with its record; otherwise nothing changes (R59, R102 to R104, R120). That R59 bars a full-line record on a STALE
line too is log 17, that the acts can be commanded by themselves log 2. -/
def Obligations.ReplaySelectsAndIssues : Prop :=
  ∀ s : State, s.resetn = true → s.readyNow = [] →
    (s.replay ≠ .idle ∨ (∀ r ∈ s.queue, ¬ s.replayable r) → exec .replaySelect s = .next s) ∧
    (∀ older r younger g c, s.replay = .idle → s.queue = older ++ r :: younger → (∀ q ∈ older, ¬ s.replayable q) →
      s.replayable r → s.region? r.region = some g → g.cycle = some c → r.line < c.lines.length →
      ∃ t, exec .replaySelect s = .next t ∧
        replayReaches { s with queue := older ++ { r with selected := true } :: younger } t r g c) ∧
    ((∀ w, s.replay ≠ .waiting w) → exec .replayIssue s = .next s) ∧
    ∀ w older r younger g c, s.replay = .waiting w → s.queue = older ++ r :: younger → (∀ q ∈ older, q.selected = false) →
      r.selected = true → s.region? r.region = some g → g.cycle = some c → r.line < c.lines.length →
      ∃ t, exec .replayIssue s = .next t ∧ replayReaches s t r g c

/-! ### The publish cycle (Chapters 2, 4, 7) -/

/-- A seal, by a SEAL line edge or for each group in the mask of SEAL, reaches every ACTIVE double region of the group and nothing else:
OPEN goes to SEALED or SEAL_WAIT by its readiness, DRAINING remembers it, the others ignore it; mask bits 4 to 7 are BADARG
(R70 to R73). -/
def Obligations.SealsReachTheActiveRegionsOfTheGroup : Prop :=
  ∀ (s : State),
    (∀ line : Fin 4, s.resetn = true → ∃ t, exec (.sealLineEdge line) s = .next t ∧ t = { s with table := t.table } ∧
      sealedTo s t fun n => n = line) ∧
    ∀ slot mask : Byte, s.linkUp →
      (mask.toNat < 16 → ∃ t, exec (.sealGroups slot mask) s = .next t ∧
        t = { s with table := t.table, reply := answerOf 4 .ack } ∧ sealedTo s t fun n => mask.getLsbD n.val = true) ∧
      (16 ≤ mask.toNat → exec (.sealGroups slot mask) s = .next { s with reply := answerOf 4 .badarg })

/-- SEALED_ENTRY moves an ACTIVE SEAL_WAIT region to SEALED when it is ready; DRAIN_END moves an ACTIVE DRAINING region to OPEN when the
draft bank has no readers, and takes a remembered seal then; in every other case they change nothing (R69, R74, R76, R87). That the
acts can be commanded by themselves is log 2. -/
def Obligations.SealedEntryAndDrainEnd : Prop :=
  ∀ (s : State) (k : SlotNo), s.resetn = true →
    (s.region? k = none → exec (.sealedEntry k) s = .next s ∧ exec (.drainEnd k) s = .next s) ∧
    ∀ g ∈ s.region? k,
      ((g.life ≠ .active ∨ g.cycle = none) → exec (.sealedEntry k) s = .next s ∧ exec (.drainEnd k) s = .next s) ∧
      ∀ c ∈ g.cycle, g.life = .active →
        (c.pub = .sealWait → s.readiness k c →
          exec (.sealedEntry k) s = .next (s.putRegion k (some (g.withCycle { c with pub := .isSealed })))) ∧
        (c.pub ≠ .sealWait ∨ ¬ s.readiness k c → exec (.sealedEntry k) s = .next s) ∧
        (c.pub = .draining → c.readers c.front.other = 0 → c.sealPending = false →
          exec (.drainEnd k) s = .next (s.putRegion k (some (g.withCycle { c with pub := .opened })))) ∧
        (c.pub = .draining → c.readers c.front.other = 0 → c.sealPending = true → ∃ c',
          exec (.drainEnd k) s = .next (s.putRegion k (some (g.withCycle c'))) ∧
          sealReaches s k { c with pub := .opened, sealPending := false } c') ∧
        (c.pub ≠ .draining ∨ c.readers c.front.other ≠ 0 → exec (.drainEnd k) s = .next s)

/-- RETURN_TO_DEFINED: a RETIRING region of which no tracker, copy slot or issued replay write is left loses its publish cycle items and its
staged offset, keeps the rest and gets RETIRED; otherwise nothing changes (R40). That the act can be commanded by itself is
log 2. -/
def Obligations.ReturnToDefinedWhenNothingIsLeft : Prop :=
  ∀ (s : State) (k : SlotNo), s.resetn = true →
    (∀ g ∈ s.region? k, g.life = .retiring → s.nothingInFlight k → exec (.returnToDefined k) s = .next (s.putRegion k (some
      { g with
        life := .defined, cycle := none, rot := g.rot.map (fun x => { x with staged := none })
        conds := g.conds ||| 0x0100 }))) ∧
    ((∀ g ∈ s.region? k, g.life ≠ .retiring ∨ ¬ s.nothingInFlight k) → exec (.returnToDefined k) s = .next s)

/-- An epoch reaches every ACTIVE region of its source: a single region changes its offset, a SEALED double region publishes, one in
SEAL_WAIT counts a missed epoch; every other region, and everything but the region table, is as before when the rest of the
happening begins (R77 to R81, R134 to R136). That a publish adds the dirty count to the stale count, 0 in a SEALED region, is
log 21. -/
def Obligations.EpochReachesTheActiveRegionsOfTheSource : Prop :=
  ∀ (s : State) (source : Source), s.resetn = true →
    ∃ u : State, exec (.epochEdge source) s = .next u.settle ∧ u = { s with table := u.table } ∧
      (∀ k, s.region? k = none → u.region? k = none) ∧
      ∀ k, ∀ g ∈ s.region? k,
        ((g.life ≠ .active ∨ g.defn.source ≠ source) → u.region? k = some g) ∧
        (g.life = .active → g.defn.source = source →
          (g.cycle = none → u.region? k = some { g with rot := offsetChanged g }) ∧
          ∀ c ∈ g.cycle,
            (c.pub = .isSealed → (g.health = .healthy ∧ g.score < 96 ∨ g.health = .warned) →
              u.region? k = some (g.afterPublish c)) ∧
            (c.pub = .sealWait → u.region? k = some
              { g with
                missed := if g.missed < 255 then g.missed + 1 else g.missed, conds := g.conds ||| 0x0002 }))

/-- An epoch has no effect on a double region in OPEN, DRAINING or HALTED, nor on a RETIRING region of either kind (R82). -/
def Obligations.EpochWithoutEffect : Prop :=
  ∀ (s : State) (source : Source), s.resetn = true →
    ∃ u : State, exec (.epochEdge source) s = .next u.settle ∧ u = { s with table := u.table } ∧
      ∀ k g, s.region? k = some g →
        (g.life = .retiring → u.region? k = some g) ∧
        ∀ c, g.cycle = some c → (c.pub = .opened ∨ c.pub = .draining ∨ c.pub = .halted) → u.region? k = some g

/-- The scan-side mapping is a permutation of the lines of the region: at any offset each line below the size is reached from exactly one
line, head and tail from themselves, body lines from body lines; offset 0 is the identity (R131). -/
def Obligations.ScanMappingPermutesTheBody : Prop :=
  ∀ (g : Region) (r : Rotation) (x : Rot),
    g.defn.rotation = some r → g.rot = some x → 1 ≤ r.body → r.head + r.body + r.tail = g.defn.size →
    (∀ i, i < g.defn.size → g.physLine i < g.defn.size) ∧
    (∀ i, i < r.head ∨ r.head + r.body ≤ i → g.physLine i = i) ∧
    (∀ i, r.head ≤ i → i < r.head + r.body → r.head ≤ g.physLine i ∧ g.physLine i < r.head + r.body) ∧
    (∀ l, l < g.defn.size → ∃ i, i < g.defn.size ∧ g.physLine i = l ∧ ∀ i', g.physLine i' = l → i' = i) ∧
    (x.offset = 0 → ∀ i, g.physLine i = i)

/-! ### What every happening keeps -/

/-- Happenings end with nothing left to do. The rest of a happening, from any state, leaves no FREE slot beside catch-up work, no
ACTIVE DRAINING region whose draft bank has no readers, no RETIRING region with nothing in flight, no ready request of the engine
while it presents none, no soft reset on an idle port. And every step, of any command, keeps a safe state restful: these, and no
SEAL_WAIT region that is ready, no hold whose reason has passed, no eligible record beside an IDLE replay unit, no waiting record
that could be issued, no grant to take; with the requests of the engine in order (R16, R40, R76, R87, R98, R101 to R103, R112, R119,
R162, R184). The order of the acts within a happening is log 1. -/
def Obligations.HappeningsEndWithNothingLeftToDo : Prop :=
  (∀ s : State,
    ((∃ j : Fin 4, s.settle.slots[j] = .free) → ∀ k line, ¬ s.settle.catchUp k line) ∧
    (∀ k, ∀ g ∈ s.settle.region? k, ∀ c ∈ g.cycle, g.life = .active → c.pub = .draining →
      0 < c.readers c.front.other) ∧
    (∀ k, ∀ g ∈ s.settle.region? k, g.life = .retiring → s.settle.nothingLeft k = false) ∧
    (s.settle.presented = none → s.settle.ready = []) ∧ s.settle.readyNow = [] ∧
    (s.settle.softReset = true → s.settle.portIdle = false)) ∧
  ∀ s t : State, s.safe → s.restful → step s = .next t → t.restful ∧ t.requestsAgree

/-- The ports' requests and responses, the memory's OKAY responses and the acts of the blocks keep every record but for counts, line
map and publish state, or return a RETIRING region to DEFINED; reads and every write but a REFUSED one are among them, whether
direct, held, posted or FENCED. And they keep the policies, the reply, the mask and the time base (R12, R39, R40, R62). -/
def Obligations.TrafficKeepsEveryRecord : Prop :=
  ∀ (s t : State) (c : Instr), isTraffic s c → exec c s = .next t →
    t.frame = s.frame ∧ t.timeBase = s.timeBase ∧
    ∀ k, (s.region? k = none → t.region? k = none) ∧
      ∀ g ∈ s.region? k, ∃ g' ∈ t.region? k, g.keptIn g'

/-- A definition part is written by DEFINE into a FREE slot and removed by UNDEFINE or a hard reset; no other command changes or removes
one, and none makes one (R22, R25, R42, R43, R130). -/
def Obligations.DefinitionsChangeOnlyByDefineAndUndefine : Prop :=
  ∀ (s t : State) (c : Instr) (k : SlotNo), exec c s = .next t →
    (∀ g ∈ s.region? k, (∃ g' ∈ t.region? k, g'.defn = g.defn) ∨
      (t.region? k = none ∧ (c = .hardReset ∨ c = .hardResetRelease ∨
        ∃ slot : Byte, c = .undefine slot ∧ slot.toNat = k.val ∧ g.life = .defined))) ∧
    (s.region? k = none → t.region? k = none ∨
      ∃ (slot : Byte) (p : DefineParams), c = .define slot p ∧ slot.toNat = k.val ∧ ValidDefinition p ∧
        ∃ g ∈ t.region? k, g.life = .defined ∧ g.defn.holds p)

/-- Generation and front bank of a live double region change only together, by one, and only at an epoch of its source that it takes in
SEALED (R44, R45, R78). The premise is the invariant `State.wellPlaced` (see EveryStepKeepsPlacesAndHealth). -/
def Obligations.GenerationChangesOnlyAtAPublish : Prop :=
  ∀ (s t : State) (i : Instr) (k : SlotNo) (g g' : Region) (c c' : Cycle), s.wellPlaced → exec i s = .next t →
    s.region? k = some g → g.cycle = some c → t.region? k = some g' → g'.cycle = some c' →
    (c'.gen = c.gen ∧ c'.front = c.front) ∨
    (i = .epochEdge g.defn.source ∧ g.life = .active ∧ c.pub = .isSealed ∧ c'.gen = c.gen + 1 ∧
      c'.front = c.front.other)

/-- A double region enters SEALED only when its stale count and its draft writer count are 0 and no record of its draft generation is
queued: after any command that made it SEALED the three hold, from any state (R72, R76). And every step keeps the three for as long
as it is SEALED (R75), and keeps the queue: records of ACTIVE regions that are not FENCED, with the targets and the order of R97, and
the selected record eligible (R94, R97, R102). -/
def Obligations.SealedOnlyWhenReady : Prop :=
  (∀ (s t : State) (i : Instr) (k : SlotNo) (g g' : Region) (c c' : Cycle), exec i s = .next t →
    s.region? k = some g → g.cycle = some c → c.pub ≠ .isSealed → t.region? k = some g' → g'.cycle = some c' →
    c'.pub = .isSealed → c'.stale = 0 ∧ c'.writers = 0 ∧ ∀ r ∈ t.queue, r.region = k → r.target ≠ c'.gen + 1) ∧
  ∀ s t : State, s.safe → step s = .next t → t.sealedReady ∧ t.queueAgrees ∧ t.heldAgrees ∧ t.replayAgrees

/-! ### Invariants that every step keeps -/

/-- Every step keeps the counts of every region in agreement with its line map (R28, R46). -/
def Obligations.EveryStepKeepsTheCounts : Prop :=
  ∀ s t : State, s.countsAgree → step s = .next t → t.countsAgree

/-- Every step keeps the numbers in their ranges (R2, R94, R144, R159, R164, R165, R179); and, from a safe state, the pool within its
16384 entries (R28), the live regions without a common line (R27), and the demand list with at most 2 entries, none twice for a
line, each for a STALE line of an ACTIVE region in OPEN or SEAL_WAIT (R120, R121). -/
def Obligations.EveryStepKeepsTheRanges : Prop :=
  (∀ s t : State, s.inRange → step s = .next t → t.inRange) ∧
  ∀ s t : State, s.safe → step s = .next t → t.poolFits ∧ t.regionsApart ∧ t.demandAgrees

/-- Every step keeps the publish cycle and rotation items where they belong, FENCED with HALTED, and the health with the score (R35, R74,
R130, R145, R146). -/
def Obligations.EveryStepKeepsPlacesAndHealth : Prop :=
  ∀ s t : State, s.wellPlaced → s.healthAgrees → step s = .next t → t.wellPlaced ∧ t.healthAgrees

/-- Every step keeps each COPYING line in exactly one copy slot, each copy from the front bank to the draft bank, and the stale count of a
SEALED region at 0 (R64, R75, R115). -/
def Obligations.EveryStepKeepsTheCopies : Prop :=
  ∀ s t : State, s.countsAgree → s.wellPlaced → s.copiesAgree → step s = .next t → t.copiesAgree

/-- Every step keeps a held P transaction the youngest, none held on the S port, and the reader and draft writer counts equal to the numbers
of transactions that entered them (R2, R9, R62, R63). -/
def Obligations.EveryStepCountsTheTransactions : Prop :=
  ∀ s t : State, s.wellPlaced → s.heldIsYoungest → s.transactionsCounted → step s = .next t →
    t.heldIsYoungest ∧ t.transactionsCounted
end

