-- ==== Sys2Proof/Laws/State.lean ====
section
/-! SUPPORT. One lemma for each field and each named update of the state, true by rfl, so that no proof unfolds a record
update; and what the frame and the region lookups are after each of them. -/

namespace Sys2Proof.Machine

variable (s : State)

/-! ### putRegion -/

@[simp] theorem State.putRegion_pending (k : SlotNo) (g : Option Region) : (s.putRegion k g).pending = s.pending := rfl
@[simp] theorem State.putRegion_resetn (k : SlotNo) (g : Option Region) : (s.putRegion k g).resetn = s.resetn := rfl
@[simp] theorem State.putRegion_timeBase (k : SlotNo) (g : Option Region) : (s.putRegion k g).timeBase = s.timeBase := rfl
@[simp] theorem State.putRegion_pTracker (k : SlotNo) (g : Option Region) : (s.putRegion k g).pTracker = s.pTracker := rfl
@[simp] theorem State.putRegion_sTracker (k : SlotNo) (g : Option Region) : (s.putRegion k g).sTracker = s.sTracker := rfl
theorem State.putRegion_table (k : SlotNo) (g : Option Region) : (s.putRegion k g).table = s.table.set k g := rfl
@[simp] theorem State.putRegion_queue (k : SlotNo) (g : Option Region) : (s.putRegion k g).queue = s.queue := rfl
@[simp] theorem State.putRegion_replay (k : SlotNo) (g : Option Region) : (s.putRegion k g).replay = s.replay := rfl
@[simp] theorem State.putRegion_slots (k : SlotNo) (g : Option Region) : (s.putRegion k g).slots = s.slots := rfl
@[simp] theorem State.putRegion_demand (k : SlotNo) (g : Option Region) : (s.putRegion k g).demand = s.demand := rfl
@[simp] theorem State.putRegion_rrPtr (k : SlotNo) (g : Option Region) : (s.putRegion k g).rrPtr = s.rrPtr := rfl
@[simp] theorem State.putRegion_ready (k : SlotNo) (g : Option Region) : (s.putRegion k g).ready = s.ready := rfl
@[simp] theorem State.putRegion_readyNow (k : SlotNo) (g : Option Region) : (s.putRegion k g).readyNow = s.readyNow := rfl
@[simp] theorem State.putRegion_presented (k : SlotNo) (g : Option Region) : (s.putRegion k g).presented = s.presented := rfl
@[simp] theorem State.putRegion_outstanding (k : SlotNo) (g : Option Region) : (s.putRegion k g).outstanding = s.outstanding := rfl
@[simp] theorem State.putRegion_mRequest (k : SlotNo) (g : Option Region) : (s.putRegion k g).mRequest = s.mRequest := rfl
@[simp] theorem State.putRegion_pPassed (k : SlotNo) (g : Option Region) : (s.putRegion k g).pPassed = s.pPassed := rfl
@[simp] theorem State.putRegion_cPassed (k : SlotNo) (g : Option Region) : (s.putRegion k g).cPassed = s.cPassed := rfl
@[simp] theorem State.putRegion_devConds (k : SlotNo) (g : Option Region) : (s.putRegion k g).devConds = s.devConds := rfl
@[simp] theorem State.putRegion_holdLimit (k : SlotNo) (g : Option Region) : (s.putRegion k g).holdLimit = s.holdLimit := rfl
@[simp] theorem State.putRegion_floor (k : SlotNo) (g : Option Region) : (s.putRegion k g).floor = s.floor := rfl
@[simp] theorem State.putRegion_refuseUnmatched (k : SlotNo) (g : Option Region) : (s.putRegion k g).refuseUnmatched = s.refuseUnmatched := rfl
@[simp] theorem State.putRegion_attnMask (k : SlotNo) (g : Option Region) : (s.putRegion k g).attnMask = s.attnMask := rfl
@[simp] theorem State.putRegion_softReset (k : SlotNo) (g : Option Region) : (s.putRegion k g).softReset = s.softReset := rfl
@[simp] theorem State.putRegion_reply (k : SlotNo) (g : Option Region) : (s.putRegion k g).reply = s.reply := rfl
@[simp] theorem State.putRegion_freeCount (k : SlotNo) (g : Option Region) : (s.putRegion k g).freeCount = s.freeCount := rfl
@[simp] theorem State.putRegion_frame (k : SlotNo) (g : Option Region) : (s.putRegion k g).frame = s.frame := rfl

/-! ### modRegion -/

@[simp] theorem State.modRegion_pending (k : SlotNo) (f : Region → Region) : (s.modRegion k f).pending = s.pending := rfl
@[simp] theorem State.modRegion_resetn (k : SlotNo) (f : Region → Region) : (s.modRegion k f).resetn = s.resetn := rfl
@[simp] theorem State.modRegion_timeBase (k : SlotNo) (f : Region → Region) : (s.modRegion k f).timeBase = s.timeBase := rfl
@[simp] theorem State.modRegion_pTracker (k : SlotNo) (f : Region → Region) : (s.modRegion k f).pTracker = s.pTracker := rfl
@[simp] theorem State.modRegion_sTracker (k : SlotNo) (f : Region → Region) : (s.modRegion k f).sTracker = s.sTracker := rfl
theorem State.modRegion_table (k : SlotNo) (f : Region → Region) : (s.modRegion k f).table = s.table.set k ((s.region? k).map f) := rfl
@[simp] theorem State.modRegion_queue (k : SlotNo) (f : Region → Region) : (s.modRegion k f).queue = s.queue := rfl
@[simp] theorem State.modRegion_replay (k : SlotNo) (f : Region → Region) : (s.modRegion k f).replay = s.replay := rfl
@[simp] theorem State.modRegion_slots (k : SlotNo) (f : Region → Region) : (s.modRegion k f).slots = s.slots := rfl
@[simp] theorem State.modRegion_demand (k : SlotNo) (f : Region → Region) : (s.modRegion k f).demand = s.demand := rfl
@[simp] theorem State.modRegion_rrPtr (k : SlotNo) (f : Region → Region) : (s.modRegion k f).rrPtr = s.rrPtr := rfl
@[simp] theorem State.modRegion_ready (k : SlotNo) (f : Region → Region) : (s.modRegion k f).ready = s.ready := rfl
@[simp] theorem State.modRegion_readyNow (k : SlotNo) (f : Region → Region) : (s.modRegion k f).readyNow = s.readyNow := rfl
@[simp] theorem State.modRegion_presented (k : SlotNo) (f : Region → Region) : (s.modRegion k f).presented = s.presented := rfl
@[simp] theorem State.modRegion_outstanding (k : SlotNo) (f : Region → Region) : (s.modRegion k f).outstanding = s.outstanding := rfl
@[simp] theorem State.modRegion_mRequest (k : SlotNo) (f : Region → Region) : (s.modRegion k f).mRequest = s.mRequest := rfl
@[simp] theorem State.modRegion_pPassed (k : SlotNo) (f : Region → Region) : (s.modRegion k f).pPassed = s.pPassed := rfl
@[simp] theorem State.modRegion_cPassed (k : SlotNo) (f : Region → Region) : (s.modRegion k f).cPassed = s.cPassed := rfl
@[simp] theorem State.modRegion_devConds (k : SlotNo) (f : Region → Region) : (s.modRegion k f).devConds = s.devConds := rfl
@[simp] theorem State.modRegion_holdLimit (k : SlotNo) (f : Region → Region) : (s.modRegion k f).holdLimit = s.holdLimit := rfl
@[simp] theorem State.modRegion_floor (k : SlotNo) (f : Region → Region) : (s.modRegion k f).floor = s.floor := rfl
@[simp] theorem State.modRegion_refuseUnmatched (k : SlotNo) (f : Region → Region) : (s.modRegion k f).refuseUnmatched = s.refuseUnmatched := rfl
@[simp] theorem State.modRegion_attnMask (k : SlotNo) (f : Region → Region) : (s.modRegion k f).attnMask = s.attnMask := rfl
@[simp] theorem State.modRegion_softReset (k : SlotNo) (f : Region → Region) : (s.modRegion k f).softReset = s.softReset := rfl
@[simp] theorem State.modRegion_reply (k : SlotNo) (f : Region → Region) : (s.modRegion k f).reply = s.reply := rfl
@[simp] theorem State.modRegion_freeCount (k : SlotNo) (f : Region → Region) : (s.modRegion k f).freeCount = s.freeCount := rfl
@[simp] theorem State.modRegion_frame (k : SlotNo) (f : Region → Region) : (s.modRegion k f).frame = s.frame := rfl

/-! ### modCycle -/

@[simp] theorem State.modCycle_pending (k : SlotNo) (f : Cycle → Cycle) : (s.modCycle k f).pending = s.pending := rfl
@[simp] theorem State.modCycle_resetn (k : SlotNo) (f : Cycle → Cycle) : (s.modCycle k f).resetn = s.resetn := rfl
@[simp] theorem State.modCycle_timeBase (k : SlotNo) (f : Cycle → Cycle) : (s.modCycle k f).timeBase = s.timeBase := rfl
@[simp] theorem State.modCycle_pTracker (k : SlotNo) (f : Cycle → Cycle) : (s.modCycle k f).pTracker = s.pTracker := rfl
@[simp] theorem State.modCycle_sTracker (k : SlotNo) (f : Cycle → Cycle) : (s.modCycle k f).sTracker = s.sTracker := rfl
theorem State.modCycle_table (k : SlotNo) (f : Cycle → Cycle) : (s.modCycle k f).table = s.table.set k ((s.region? k).map (·.modCycle f)) := rfl
@[simp] theorem State.modCycle_queue (k : SlotNo) (f : Cycle → Cycle) : (s.modCycle k f).queue = s.queue := rfl
@[simp] theorem State.modCycle_replay (k : SlotNo) (f : Cycle → Cycle) : (s.modCycle k f).replay = s.replay := rfl
@[simp] theorem State.modCycle_slots (k : SlotNo) (f : Cycle → Cycle) : (s.modCycle k f).slots = s.slots := rfl
@[simp] theorem State.modCycle_demand (k : SlotNo) (f : Cycle → Cycle) : (s.modCycle k f).demand = s.demand := rfl
@[simp] theorem State.modCycle_rrPtr (k : SlotNo) (f : Cycle → Cycle) : (s.modCycle k f).rrPtr = s.rrPtr := rfl
@[simp] theorem State.modCycle_ready (k : SlotNo) (f : Cycle → Cycle) : (s.modCycle k f).ready = s.ready := rfl
@[simp] theorem State.modCycle_readyNow (k : SlotNo) (f : Cycle → Cycle) : (s.modCycle k f).readyNow = s.readyNow := rfl
@[simp] theorem State.modCycle_presented (k : SlotNo) (f : Cycle → Cycle) : (s.modCycle k f).presented = s.presented := rfl
@[simp] theorem State.modCycle_outstanding (k : SlotNo) (f : Cycle → Cycle) : (s.modCycle k f).outstanding = s.outstanding := rfl
@[simp] theorem State.modCycle_mRequest (k : SlotNo) (f : Cycle → Cycle) : (s.modCycle k f).mRequest = s.mRequest := rfl
@[simp] theorem State.modCycle_pPassed (k : SlotNo) (f : Cycle → Cycle) : (s.modCycle k f).pPassed = s.pPassed := rfl
@[simp] theorem State.modCycle_cPassed (k : SlotNo) (f : Cycle → Cycle) : (s.modCycle k f).cPassed = s.cPassed := rfl
@[simp] theorem State.modCycle_devConds (k : SlotNo) (f : Cycle → Cycle) : (s.modCycle k f).devConds = s.devConds := rfl
@[simp] theorem State.modCycle_holdLimit (k : SlotNo) (f : Cycle → Cycle) : (s.modCycle k f).holdLimit = s.holdLimit := rfl
@[simp] theorem State.modCycle_floor (k : SlotNo) (f : Cycle → Cycle) : (s.modCycle k f).floor = s.floor := rfl
@[simp] theorem State.modCycle_refuseUnmatched (k : SlotNo) (f : Cycle → Cycle) : (s.modCycle k f).refuseUnmatched = s.refuseUnmatched := rfl
@[simp] theorem State.modCycle_attnMask (k : SlotNo) (f : Cycle → Cycle) : (s.modCycle k f).attnMask = s.attnMask := rfl
@[simp] theorem State.modCycle_softReset (k : SlotNo) (f : Cycle → Cycle) : (s.modCycle k f).softReset = s.softReset := rfl
@[simp] theorem State.modCycle_reply (k : SlotNo) (f : Cycle → Cycle) : (s.modCycle k f).reply = s.reply := rfl
@[simp] theorem State.modCycle_freeCount (k : SlotNo) (f : Cycle → Cycle) : (s.modCycle k f).freeCount = s.freeCount := rfl
@[simp] theorem State.modCycle_frame (k : SlotNo) (f : Cycle → Cycle) : (s.modCycle k f).frame = s.frame := rfl

/-! ### mapRegions -/

@[simp] theorem State.mapRegions_pending (f : SlotNo → Region → Region) : (s.mapRegions f).pending = s.pending := rfl
@[simp] theorem State.mapRegions_resetn (f : SlotNo → Region → Region) : (s.mapRegions f).resetn = s.resetn := rfl
@[simp] theorem State.mapRegions_timeBase (f : SlotNo → Region → Region) : (s.mapRegions f).timeBase = s.timeBase := rfl
@[simp] theorem State.mapRegions_pTracker (f : SlotNo → Region → Region) : (s.mapRegions f).pTracker = s.pTracker := rfl
@[simp] theorem State.mapRegions_sTracker (f : SlotNo → Region → Region) : (s.mapRegions f).sTracker = s.sTracker := rfl
@[simp] theorem State.mapRegions_queue (f : SlotNo → Region → Region) : (s.mapRegions f).queue = s.queue := rfl
@[simp] theorem State.mapRegions_replay (f : SlotNo → Region → Region) : (s.mapRegions f).replay = s.replay := rfl
@[simp] theorem State.mapRegions_slots (f : SlotNo → Region → Region) : (s.mapRegions f).slots = s.slots := rfl
@[simp] theorem State.mapRegions_demand (f : SlotNo → Region → Region) : (s.mapRegions f).demand = s.demand := rfl
@[simp] theorem State.mapRegions_rrPtr (f : SlotNo → Region → Region) : (s.mapRegions f).rrPtr = s.rrPtr := rfl
@[simp] theorem State.mapRegions_ready (f : SlotNo → Region → Region) : (s.mapRegions f).ready = s.ready := rfl
@[simp] theorem State.mapRegions_readyNow (f : SlotNo → Region → Region) : (s.mapRegions f).readyNow = s.readyNow := rfl
@[simp] theorem State.mapRegions_presented (f : SlotNo → Region → Region) : (s.mapRegions f).presented = s.presented := rfl
@[simp] theorem State.mapRegions_outstanding (f : SlotNo → Region → Region) : (s.mapRegions f).outstanding = s.outstanding := rfl
@[simp] theorem State.mapRegions_mRequest (f : SlotNo → Region → Region) : (s.mapRegions f).mRequest = s.mRequest := rfl
@[simp] theorem State.mapRegions_pPassed (f : SlotNo → Region → Region) : (s.mapRegions f).pPassed = s.pPassed := rfl
@[simp] theorem State.mapRegions_cPassed (f : SlotNo → Region → Region) : (s.mapRegions f).cPassed = s.cPassed := rfl
@[simp] theorem State.mapRegions_devConds (f : SlotNo → Region → Region) : (s.mapRegions f).devConds = s.devConds := rfl
@[simp] theorem State.mapRegions_holdLimit (f : SlotNo → Region → Region) : (s.mapRegions f).holdLimit = s.holdLimit := rfl
@[simp] theorem State.mapRegions_floor (f : SlotNo → Region → Region) : (s.mapRegions f).floor = s.floor := rfl
@[simp] theorem State.mapRegions_refuseUnmatched (f : SlotNo → Region → Region) : (s.mapRegions f).refuseUnmatched = s.refuseUnmatched := rfl
@[simp] theorem State.mapRegions_attnMask (f : SlotNo → Region → Region) : (s.mapRegions f).attnMask = s.attnMask := rfl
@[simp] theorem State.mapRegions_softReset (f : SlotNo → Region → Region) : (s.mapRegions f).softReset = s.softReset := rfl
@[simp] theorem State.mapRegions_reply (f : SlotNo → Region → Region) : (s.mapRegions f).reply = s.reply := rfl
@[simp] theorem State.mapRegions_freeCount (f : SlotNo → Region → Region) : (s.mapRegions f).freeCount = s.freeCount := rfl
@[simp] theorem State.mapRegions_frame (f : SlotNo → Region → Region) : (s.mapRegions f).frame = s.frame := rfl

/-! ### modHeld -/

@[simp] theorem State.modHeld_pending (f : Tx → Tx) : (s.modHeld f).pending = s.pending := rfl
@[simp] theorem State.modHeld_resetn (f : Tx → Tx) : (s.modHeld f).resetn = s.resetn := rfl
@[simp] theorem State.modHeld_timeBase (f : Tx → Tx) : (s.modHeld f).timeBase = s.timeBase := rfl
@[simp] theorem State.modHeld_pTracker (f : Tx → Tx) : (s.modHeld f).pTracker = s.pTracker.map fun t => if t.isHeld then f t else t := rfl
@[simp] theorem State.modHeld_sTracker (f : Tx → Tx) : (s.modHeld f).sTracker = s.sTracker := rfl
@[simp] theorem State.modHeld_table (f : Tx → Tx) : (s.modHeld f).table = s.table := rfl
@[simp] theorem State.modHeld_queue (f : Tx → Tx) : (s.modHeld f).queue = s.queue := rfl
@[simp] theorem State.modHeld_replay (f : Tx → Tx) : (s.modHeld f).replay = s.replay := rfl
@[simp] theorem State.modHeld_slots (f : Tx → Tx) : (s.modHeld f).slots = s.slots := rfl
@[simp] theorem State.modHeld_demand (f : Tx → Tx) : (s.modHeld f).demand = s.demand := rfl
@[simp] theorem State.modHeld_rrPtr (f : Tx → Tx) : (s.modHeld f).rrPtr = s.rrPtr := rfl
@[simp] theorem State.modHeld_ready (f : Tx → Tx) : (s.modHeld f).ready = s.ready := rfl
@[simp] theorem State.modHeld_readyNow (f : Tx → Tx) : (s.modHeld f).readyNow = s.readyNow := rfl
@[simp] theorem State.modHeld_presented (f : Tx → Tx) : (s.modHeld f).presented = s.presented := rfl
@[simp] theorem State.modHeld_outstanding (f : Tx → Tx) : (s.modHeld f).outstanding = s.outstanding := rfl
@[simp] theorem State.modHeld_mRequest (f : Tx → Tx) : (s.modHeld f).mRequest = s.mRequest := rfl
@[simp] theorem State.modHeld_pPassed (f : Tx → Tx) : (s.modHeld f).pPassed = s.pPassed := rfl
@[simp] theorem State.modHeld_cPassed (f : Tx → Tx) : (s.modHeld f).cPassed = s.cPassed := rfl
@[simp] theorem State.modHeld_devConds (f : Tx → Tx) : (s.modHeld f).devConds = s.devConds := rfl
@[simp] theorem State.modHeld_holdLimit (f : Tx → Tx) : (s.modHeld f).holdLimit = s.holdLimit := rfl
@[simp] theorem State.modHeld_floor (f : Tx → Tx) : (s.modHeld f).floor = s.floor := rfl
@[simp] theorem State.modHeld_refuseUnmatched (f : Tx → Tx) : (s.modHeld f).refuseUnmatched = s.refuseUnmatched := rfl
@[simp] theorem State.modHeld_attnMask (f : Tx → Tx) : (s.modHeld f).attnMask = s.attnMask := rfl
@[simp] theorem State.modHeld_softReset (f : Tx → Tx) : (s.modHeld f).softReset = s.softReset := rfl
@[simp] theorem State.modHeld_reply (f : Tx → Tx) : (s.modHeld f).reply = s.reply := rfl
@[simp] theorem State.modHeld_freeCount (f : Tx → Tx) : (s.modHeld f).freeCount = s.freeCount := rfl
@[simp] theorem State.modHeld_region? (f : Tx → Tx) (i : SlotNo) : (s.modHeld f).region? i = s.region? i := rfl
@[simp] theorem State.modHeld_frame (f : Tx → Tx) : (s.modHeld f).frame = s.frame := rfl

/-! ### answerHeldOf -/

@[simp] theorem State.answerHeldOf_pending (k : SlotNo) (st : Status) : (s.answerHeldOf k st).pending = s.pending := rfl
@[simp] theorem State.answerHeldOf_resetn (k : SlotNo) (st : Status) : (s.answerHeldOf k st).resetn = s.resetn := rfl
@[simp] theorem State.answerHeldOf_timeBase (k : SlotNo) (st : Status) : (s.answerHeldOf k st).timeBase = s.timeBase := rfl
@[simp] theorem State.answerHeldOf_sTracker (k : SlotNo) (st : Status) : (s.answerHeldOf k st).sTracker = s.sTracker := rfl
@[simp] theorem State.answerHeldOf_table (k : SlotNo) (st : Status) : (s.answerHeldOf k st).table = s.table := rfl
@[simp] theorem State.answerHeldOf_queue (k : SlotNo) (st : Status) : (s.answerHeldOf k st).queue = s.queue := rfl
@[simp] theorem State.answerHeldOf_replay (k : SlotNo) (st : Status) : (s.answerHeldOf k st).replay = s.replay := rfl
@[simp] theorem State.answerHeldOf_slots (k : SlotNo) (st : Status) : (s.answerHeldOf k st).slots = s.slots := rfl
@[simp] theorem State.answerHeldOf_demand (k : SlotNo) (st : Status) : (s.answerHeldOf k st).demand = s.demand := rfl
@[simp] theorem State.answerHeldOf_rrPtr (k : SlotNo) (st : Status) : (s.answerHeldOf k st).rrPtr = s.rrPtr := rfl
@[simp] theorem State.answerHeldOf_ready (k : SlotNo) (st : Status) : (s.answerHeldOf k st).ready = s.ready := rfl
@[simp] theorem State.answerHeldOf_readyNow (k : SlotNo) (st : Status) : (s.answerHeldOf k st).readyNow = s.readyNow := rfl
@[simp] theorem State.answerHeldOf_presented (k : SlotNo) (st : Status) : (s.answerHeldOf k st).presented = s.presented := rfl
@[simp] theorem State.answerHeldOf_outstanding (k : SlotNo) (st : Status) : (s.answerHeldOf k st).outstanding = s.outstanding := rfl
@[simp] theorem State.answerHeldOf_mRequest (k : SlotNo) (st : Status) : (s.answerHeldOf k st).mRequest = s.mRequest := rfl
@[simp] theorem State.answerHeldOf_pPassed (k : SlotNo) (st : Status) : (s.answerHeldOf k st).pPassed = s.pPassed := rfl
@[simp] theorem State.answerHeldOf_cPassed (k : SlotNo) (st : Status) : (s.answerHeldOf k st).cPassed = s.cPassed := rfl
@[simp] theorem State.answerHeldOf_devConds (k : SlotNo) (st : Status) : (s.answerHeldOf k st).devConds = s.devConds := rfl
@[simp] theorem State.answerHeldOf_holdLimit (k : SlotNo) (st : Status) : (s.answerHeldOf k st).holdLimit = s.holdLimit := rfl
@[simp] theorem State.answerHeldOf_floor (k : SlotNo) (st : Status) : (s.answerHeldOf k st).floor = s.floor := rfl
@[simp] theorem State.answerHeldOf_refuseUnmatched (k : SlotNo) (st : Status) : (s.answerHeldOf k st).refuseUnmatched = s.refuseUnmatched := rfl
@[simp] theorem State.answerHeldOf_attnMask (k : SlotNo) (st : Status) : (s.answerHeldOf k st).attnMask = s.attnMask := rfl
@[simp] theorem State.answerHeldOf_softReset (k : SlotNo) (st : Status) : (s.answerHeldOf k st).softReset = s.softReset := rfl
@[simp] theorem State.answerHeldOf_reply (k : SlotNo) (st : Status) : (s.answerHeldOf k st).reply = s.reply := rfl
@[simp] theorem State.answerHeldOf_freeCount (k : SlotNo) (st : Status) : (s.answerHeldOf k st).freeCount = s.freeCount := rfl
@[simp] theorem State.answerHeldOf_region? (k : SlotNo) (st : Status) (i : SlotNo) : (s.answerHeldOf k st).region? i = s.region? i := rfl
@[simp] theorem State.answerHeldOf_frame (k : SlotNo) (st : Status) : (s.answerHeldOf k st).frame = s.frame := rfl

/-! ### dropRecords -/

@[simp] theorem State.dropRecords_pending (k : SlotNo) : (s.dropRecords k).pending = s.pending := rfl
@[simp] theorem State.dropRecords_resetn (k : SlotNo) : (s.dropRecords k).resetn = s.resetn := rfl
@[simp] theorem State.dropRecords_timeBase (k : SlotNo) : (s.dropRecords k).timeBase = s.timeBase := rfl
@[simp] theorem State.dropRecords_pTracker (k : SlotNo) : (s.dropRecords k).pTracker = s.pTracker := rfl
@[simp] theorem State.dropRecords_sTracker (k : SlotNo) : (s.dropRecords k).sTracker = s.sTracker := rfl
@[simp] theorem State.dropRecords_table (k : SlotNo) : (s.dropRecords k).table = s.table := rfl
@[simp] theorem State.dropRecords_queue (k : SlotNo) : (s.dropRecords k).queue = s.queue.filter fun r => r.region != k := rfl
@[simp] theorem State.dropRecords_replay (k : SlotNo) : (s.dropRecords k).replay = if s.replayWaitsFor k then .idle else s.replay := rfl
@[simp] theorem State.dropRecords_slots (k : SlotNo) : (s.dropRecords k).slots = s.slots := rfl
@[simp] theorem State.dropRecords_demand (k : SlotNo) : (s.dropRecords k).demand = s.demand := rfl
@[simp] theorem State.dropRecords_rrPtr (k : SlotNo) : (s.dropRecords k).rrPtr = s.rrPtr := rfl
@[simp] theorem State.dropRecords_ready (k : SlotNo) : (s.dropRecords k).ready = s.ready := rfl
@[simp] theorem State.dropRecords_readyNow (k : SlotNo) : (s.dropRecords k).readyNow = s.readyNow := rfl
@[simp] theorem State.dropRecords_presented (k : SlotNo) : (s.dropRecords k).presented = s.presented := rfl
@[simp] theorem State.dropRecords_outstanding (k : SlotNo) : (s.dropRecords k).outstanding = s.outstanding := rfl
@[simp] theorem State.dropRecords_mRequest (k : SlotNo) : (s.dropRecords k).mRequest = s.mRequest := rfl
@[simp] theorem State.dropRecords_pPassed (k : SlotNo) : (s.dropRecords k).pPassed = s.pPassed := rfl
@[simp] theorem State.dropRecords_cPassed (k : SlotNo) : (s.dropRecords k).cPassed = s.cPassed := rfl
@[simp] theorem State.dropRecords_devConds (k : SlotNo) : (s.dropRecords k).devConds = s.devConds := rfl
@[simp] theorem State.dropRecords_holdLimit (k : SlotNo) : (s.dropRecords k).holdLimit = s.holdLimit := rfl
@[simp] theorem State.dropRecords_floor (k : SlotNo) : (s.dropRecords k).floor = s.floor := rfl
@[simp] theorem State.dropRecords_refuseUnmatched (k : SlotNo) : (s.dropRecords k).refuseUnmatched = s.refuseUnmatched := rfl
@[simp] theorem State.dropRecords_attnMask (k : SlotNo) : (s.dropRecords k).attnMask = s.attnMask := rfl
@[simp] theorem State.dropRecords_softReset (k : SlotNo) : (s.dropRecords k).softReset = s.softReset := rfl
@[simp] theorem State.dropRecords_reply (k : SlotNo) : (s.dropRecords k).reply = s.reply := rfl
@[simp] theorem State.dropRecords_freeCount (k : SlotNo) : (s.dropRecords k).freeCount = s.freeCount := rfl
@[simp] theorem State.dropRecords_region? (k : SlotNo) (i : SlotNo) : (s.dropRecords k).region? i = s.region? i := rfl
@[simp] theorem State.dropRecords_frame (k : SlotNo) : (s.dropRecords k).frame = s.frame := rfl

/-! ### undemand -/

@[simp] theorem State.undemand_pending (k : SlotNo) (line : Nat) : (s.undemand k line).pending = s.pending := rfl
@[simp] theorem State.undemand_resetn (k : SlotNo) (line : Nat) : (s.undemand k line).resetn = s.resetn := rfl
@[simp] theorem State.undemand_timeBase (k : SlotNo) (line : Nat) : (s.undemand k line).timeBase = s.timeBase := rfl
@[simp] theorem State.undemand_pTracker (k : SlotNo) (line : Nat) : (s.undemand k line).pTracker = s.pTracker := rfl
@[simp] theorem State.undemand_sTracker (k : SlotNo) (line : Nat) : (s.undemand k line).sTracker = s.sTracker := rfl
@[simp] theorem State.undemand_table (k : SlotNo) (line : Nat) : (s.undemand k line).table = s.table := rfl
@[simp] theorem State.undemand_queue (k : SlotNo) (line : Nat) : (s.undemand k line).queue = s.queue := rfl
@[simp] theorem State.undemand_replay (k : SlotNo) (line : Nat) : (s.undemand k line).replay = s.replay := rfl
@[simp] theorem State.undemand_slots (k : SlotNo) (line : Nat) : (s.undemand k line).slots = s.slots := rfl
@[simp] theorem State.undemand_demand (k : SlotNo) (line : Nat) : (s.undemand k line).demand = s.demand.filter fun e => !(e.region == k && e.line == line) := rfl
@[simp] theorem State.undemand_rrPtr (k : SlotNo) (line : Nat) : (s.undemand k line).rrPtr = s.rrPtr := rfl
@[simp] theorem State.undemand_ready (k : SlotNo) (line : Nat) : (s.undemand k line).ready = s.ready := rfl
@[simp] theorem State.undemand_readyNow (k : SlotNo) (line : Nat) : (s.undemand k line).readyNow = s.readyNow := rfl
@[simp] theorem State.undemand_presented (k : SlotNo) (line : Nat) : (s.undemand k line).presented = s.presented := rfl
@[simp] theorem State.undemand_outstanding (k : SlotNo) (line : Nat) : (s.undemand k line).outstanding = s.outstanding := rfl
@[simp] theorem State.undemand_mRequest (k : SlotNo) (line : Nat) : (s.undemand k line).mRequest = s.mRequest := rfl
@[simp] theorem State.undemand_pPassed (k : SlotNo) (line : Nat) : (s.undemand k line).pPassed = s.pPassed := rfl
@[simp] theorem State.undemand_cPassed (k : SlotNo) (line : Nat) : (s.undemand k line).cPassed = s.cPassed := rfl
@[simp] theorem State.undemand_devConds (k : SlotNo) (line : Nat) : (s.undemand k line).devConds = s.devConds := rfl
@[simp] theorem State.undemand_holdLimit (k : SlotNo) (line : Nat) : (s.undemand k line).holdLimit = s.holdLimit := rfl
@[simp] theorem State.undemand_floor (k : SlotNo) (line : Nat) : (s.undemand k line).floor = s.floor := rfl
@[simp] theorem State.undemand_refuseUnmatched (k : SlotNo) (line : Nat) : (s.undemand k line).refuseUnmatched = s.refuseUnmatched := rfl
@[simp] theorem State.undemand_attnMask (k : SlotNo) (line : Nat) : (s.undemand k line).attnMask = s.attnMask := rfl
@[simp] theorem State.undemand_softReset (k : SlotNo) (line : Nat) : (s.undemand k line).softReset = s.softReset := rfl
@[simp] theorem State.undemand_reply (k : SlotNo) (line : Nat) : (s.undemand k line).reply = s.reply := rfl
@[simp] theorem State.undemand_freeCount (k : SlotNo) (line : Nat) : (s.undemand k line).freeCount = s.freeCount := rfl
@[simp] theorem State.undemand_region? (k : SlotNo) (line : Nat) (i : SlotNo) : (s.undemand k line).region? i = s.region? i := rfl
@[simp] theorem State.undemand_frame (k : SlotNo) (line : Nat) : (s.undemand k line).frame = s.frame := rfl

/-! ### undemandRegion -/

@[simp] theorem State.undemandRegion_pending (k : SlotNo) : (s.undemandRegion k).pending = s.pending := rfl
@[simp] theorem State.undemandRegion_resetn (k : SlotNo) : (s.undemandRegion k).resetn = s.resetn := rfl
@[simp] theorem State.undemandRegion_timeBase (k : SlotNo) : (s.undemandRegion k).timeBase = s.timeBase := rfl
@[simp] theorem State.undemandRegion_pTracker (k : SlotNo) : (s.undemandRegion k).pTracker = s.pTracker := rfl
@[simp] theorem State.undemandRegion_sTracker (k : SlotNo) : (s.undemandRegion k).sTracker = s.sTracker := rfl
@[simp] theorem State.undemandRegion_table (k : SlotNo) : (s.undemandRegion k).table = s.table := rfl
@[simp] theorem State.undemandRegion_queue (k : SlotNo) : (s.undemandRegion k).queue = s.queue := rfl
@[simp] theorem State.undemandRegion_replay (k : SlotNo) : (s.undemandRegion k).replay = s.replay := rfl
@[simp] theorem State.undemandRegion_slots (k : SlotNo) : (s.undemandRegion k).slots = s.slots := rfl
@[simp] theorem State.undemandRegion_demand (k : SlotNo) : (s.undemandRegion k).demand = s.demand.filter fun e => e.region != k := rfl
@[simp] theorem State.undemandRegion_rrPtr (k : SlotNo) : (s.undemandRegion k).rrPtr = s.rrPtr := rfl
@[simp] theorem State.undemandRegion_ready (k : SlotNo) : (s.undemandRegion k).ready = s.ready := rfl
@[simp] theorem State.undemandRegion_readyNow (k : SlotNo) : (s.undemandRegion k).readyNow = s.readyNow := rfl
@[simp] theorem State.undemandRegion_presented (k : SlotNo) : (s.undemandRegion k).presented = s.presented := rfl
@[simp] theorem State.undemandRegion_outstanding (k : SlotNo) : (s.undemandRegion k).outstanding = s.outstanding := rfl
@[simp] theorem State.undemandRegion_mRequest (k : SlotNo) : (s.undemandRegion k).mRequest = s.mRequest := rfl
@[simp] theorem State.undemandRegion_pPassed (k : SlotNo) : (s.undemandRegion k).pPassed = s.pPassed := rfl
@[simp] theorem State.undemandRegion_cPassed (k : SlotNo) : (s.undemandRegion k).cPassed = s.cPassed := rfl
@[simp] theorem State.undemandRegion_devConds (k : SlotNo) : (s.undemandRegion k).devConds = s.devConds := rfl
@[simp] theorem State.undemandRegion_holdLimit (k : SlotNo) : (s.undemandRegion k).holdLimit = s.holdLimit := rfl
@[simp] theorem State.undemandRegion_floor (k : SlotNo) : (s.undemandRegion k).floor = s.floor := rfl
@[simp] theorem State.undemandRegion_refuseUnmatched (k : SlotNo) : (s.undemandRegion k).refuseUnmatched = s.refuseUnmatched := rfl
@[simp] theorem State.undemandRegion_attnMask (k : SlotNo) : (s.undemandRegion k).attnMask = s.attnMask := rfl
@[simp] theorem State.undemandRegion_softReset (k : SlotNo) : (s.undemandRegion k).softReset = s.softReset := rfl
@[simp] theorem State.undemandRegion_reply (k : SlotNo) : (s.undemandRegion k).reply = s.reply := rfl
@[simp] theorem State.undemandRegion_freeCount (k : SlotNo) : (s.undemandRegion k).freeCount = s.freeCount := rfl
@[simp] theorem State.undemandRegion_region? (k : SlotNo) (i : SlotNo) : (s.undemandRegion k).region? i = s.region? i := rfl
@[simp] theorem State.undemandRegion_frame (k : SlotNo) : (s.undemandRegion k).frame = s.frame := rfl

/-! ### makeReady -/

@[simp] theorem State.makeReady_pending (e : EngineReq) : (s.makeReady e).pending = s.pending := rfl
@[simp] theorem State.makeReady_resetn (e : EngineReq) : (s.makeReady e).resetn = s.resetn := rfl
@[simp] theorem State.makeReady_timeBase (e : EngineReq) : (s.makeReady e).timeBase = s.timeBase := rfl
@[simp] theorem State.makeReady_pTracker (e : EngineReq) : (s.makeReady e).pTracker = s.pTracker := rfl
@[simp] theorem State.makeReady_sTracker (e : EngineReq) : (s.makeReady e).sTracker = s.sTracker := rfl
@[simp] theorem State.makeReady_table (e : EngineReq) : (s.makeReady e).table = s.table := rfl
@[simp] theorem State.makeReady_queue (e : EngineReq) : (s.makeReady e).queue = s.queue := rfl
@[simp] theorem State.makeReady_replay (e : EngineReq) : (s.makeReady e).replay = s.replay := rfl
@[simp] theorem State.makeReady_slots (e : EngineReq) : (s.makeReady e).slots = s.slots := rfl
@[simp] theorem State.makeReady_demand (e : EngineReq) : (s.makeReady e).demand = s.demand := rfl
@[simp] theorem State.makeReady_rrPtr (e : EngineReq) : (s.makeReady e).rrPtr = s.rrPtr := rfl
@[simp] theorem State.makeReady_ready (e : EngineReq) : (s.makeReady e).ready = s.ready := rfl
@[simp] theorem State.makeReady_readyNow (e : EngineReq) : (s.makeReady e).readyNow = insertByRank e s.readyNow := rfl
@[simp] theorem State.makeReady_presented (e : EngineReq) : (s.makeReady e).presented = s.presented := rfl
@[simp] theorem State.makeReady_outstanding (e : EngineReq) : (s.makeReady e).outstanding = s.outstanding := rfl
@[simp] theorem State.makeReady_mRequest (e : EngineReq) : (s.makeReady e).mRequest = s.mRequest := rfl
@[simp] theorem State.makeReady_pPassed (e : EngineReq) : (s.makeReady e).pPassed = s.pPassed := rfl
@[simp] theorem State.makeReady_cPassed (e : EngineReq) : (s.makeReady e).cPassed = s.cPassed := rfl
@[simp] theorem State.makeReady_devConds (e : EngineReq) : (s.makeReady e).devConds = s.devConds := rfl
@[simp] theorem State.makeReady_holdLimit (e : EngineReq) : (s.makeReady e).holdLimit = s.holdLimit := rfl
@[simp] theorem State.makeReady_floor (e : EngineReq) : (s.makeReady e).floor = s.floor := rfl
@[simp] theorem State.makeReady_refuseUnmatched (e : EngineReq) : (s.makeReady e).refuseUnmatched = s.refuseUnmatched := rfl
@[simp] theorem State.makeReady_attnMask (e : EngineReq) : (s.makeReady e).attnMask = s.attnMask := rfl
@[simp] theorem State.makeReady_softReset (e : EngineReq) : (s.makeReady e).softReset = s.softReset := rfl
@[simp] theorem State.makeReady_reply (e : EngineReq) : (s.makeReady e).reply = s.reply := rfl
@[simp] theorem State.makeReady_freeCount (e : EngineReq) : (s.makeReady e).freeCount = s.freeCount := rfl
@[simp] theorem State.makeReady_region? (e : EngineReq) (i : SlotNo) : (s.makeReady e).region? i = s.region? i := rfl
@[simp] theorem State.makeReady_frame (e : EngineReq) : (s.makeReady e).frame = s.frame := rfl

/-! ### withdraw -/

@[simp] theorem State.withdraw_pending (p : EngineReq → Bool) : (s.withdraw p).pending = s.pending := rfl
@[simp] theorem State.withdraw_resetn (p : EngineReq → Bool) : (s.withdraw p).resetn = s.resetn := rfl
@[simp] theorem State.withdraw_timeBase (p : EngineReq → Bool) : (s.withdraw p).timeBase = s.timeBase := rfl
@[simp] theorem State.withdraw_pTracker (p : EngineReq → Bool) : (s.withdraw p).pTracker = s.pTracker := rfl
@[simp] theorem State.withdraw_sTracker (p : EngineReq → Bool) : (s.withdraw p).sTracker = s.sTracker := rfl
@[simp] theorem State.withdraw_table (p : EngineReq → Bool) : (s.withdraw p).table = s.table := rfl
@[simp] theorem State.withdraw_queue (p : EngineReq → Bool) : (s.withdraw p).queue = s.queue := rfl
@[simp] theorem State.withdraw_replay (p : EngineReq → Bool) : (s.withdraw p).replay = s.replay := rfl
@[simp] theorem State.withdraw_slots (p : EngineReq → Bool) : (s.withdraw p).slots = s.slots := rfl
@[simp] theorem State.withdraw_demand (p : EngineReq → Bool) : (s.withdraw p).demand = s.demand := rfl
@[simp] theorem State.withdraw_rrPtr (p : EngineReq → Bool) : (s.withdraw p).rrPtr = s.rrPtr := rfl
@[simp] theorem State.withdraw_ready (p : EngineReq → Bool) : (s.withdraw p).ready = s.ready.filter fun e => !p e := rfl
@[simp] theorem State.withdraw_readyNow (p : EngineReq → Bool) : (s.withdraw p).readyNow = s.readyNow.filter fun e => !p e := rfl
@[simp] theorem State.withdraw_presented (p : EngineReq → Bool) : (s.withdraw p).presented = if s.presented.any p then none else s.presented := rfl
@[simp] theorem State.withdraw_outstanding (p : EngineReq → Bool) : (s.withdraw p).outstanding = s.outstanding := rfl
@[simp] theorem State.withdraw_mRequest (p : EngineReq → Bool) : (s.withdraw p).mRequest = s.mRequest := rfl
@[simp] theorem State.withdraw_pPassed (p : EngineReq → Bool) : (s.withdraw p).pPassed = s.pPassed := rfl
@[simp] theorem State.withdraw_cPassed (p : EngineReq → Bool) : (s.withdraw p).cPassed = s.cPassed := rfl
@[simp] theorem State.withdraw_devConds (p : EngineReq → Bool) : (s.withdraw p).devConds = s.devConds := rfl
@[simp] theorem State.withdraw_holdLimit (p : EngineReq → Bool) : (s.withdraw p).holdLimit = s.holdLimit := rfl
@[simp] theorem State.withdraw_floor (p : EngineReq → Bool) : (s.withdraw p).floor = s.floor := rfl
@[simp] theorem State.withdraw_refuseUnmatched (p : EngineReq → Bool) : (s.withdraw p).refuseUnmatched = s.refuseUnmatched := rfl
@[simp] theorem State.withdraw_attnMask (p : EngineReq → Bool) : (s.withdraw p).attnMask = s.attnMask := rfl
@[simp] theorem State.withdraw_softReset (p : EngineReq → Bool) : (s.withdraw p).softReset = s.softReset := rfl
@[simp] theorem State.withdraw_reply (p : EngineReq → Bool) : (s.withdraw p).reply = s.reply := rfl
@[simp] theorem State.withdraw_freeCount (p : EngineReq → Bool) : (s.withdraw p).freeCount = s.freeCount := rfl
@[simp] theorem State.withdraw_region? (p : EngineReq → Bool) (i : SlotNo) : (s.withdraw p).region? i = s.region? i := rfl
@[simp] theorem State.withdraw_frame (p : EngineReq → Bool) : (s.withdraw p).frame = s.frame := rfl

/-! ### setSlot -/

@[simp] theorem State.setSlot_pending (j : Fin 4) (c : CopySlot) : (s.setSlot j c).pending = s.pending := rfl
@[simp] theorem State.setSlot_resetn (j : Fin 4) (c : CopySlot) : (s.setSlot j c).resetn = s.resetn := rfl
@[simp] theorem State.setSlot_timeBase (j : Fin 4) (c : CopySlot) : (s.setSlot j c).timeBase = s.timeBase := rfl
@[simp] theorem State.setSlot_pTracker (j : Fin 4) (c : CopySlot) : (s.setSlot j c).pTracker = s.pTracker := rfl
@[simp] theorem State.setSlot_sTracker (j : Fin 4) (c : CopySlot) : (s.setSlot j c).sTracker = s.sTracker := rfl
@[simp] theorem State.setSlot_table (j : Fin 4) (c : CopySlot) : (s.setSlot j c).table = s.table := rfl
@[simp] theorem State.setSlot_queue (j : Fin 4) (c : CopySlot) : (s.setSlot j c).queue = s.queue := rfl
@[simp] theorem State.setSlot_replay (j : Fin 4) (c : CopySlot) : (s.setSlot j c).replay = s.replay := rfl
@[simp] theorem State.setSlot_slots (j : Fin 4) (c : CopySlot) : (s.setSlot j c).slots = s.slots.set j c := rfl
@[simp] theorem State.setSlot_demand (j : Fin 4) (c : CopySlot) : (s.setSlot j c).demand = s.demand := rfl
@[simp] theorem State.setSlot_rrPtr (j : Fin 4) (c : CopySlot) : (s.setSlot j c).rrPtr = s.rrPtr := rfl
@[simp] theorem State.setSlot_ready (j : Fin 4) (c : CopySlot) : (s.setSlot j c).ready = s.ready := rfl
@[simp] theorem State.setSlot_readyNow (j : Fin 4) (c : CopySlot) : (s.setSlot j c).readyNow = s.readyNow := rfl
@[simp] theorem State.setSlot_presented (j : Fin 4) (c : CopySlot) : (s.setSlot j c).presented = s.presented := rfl
@[simp] theorem State.setSlot_outstanding (j : Fin 4) (c : CopySlot) : (s.setSlot j c).outstanding = s.outstanding := rfl
@[simp] theorem State.setSlot_mRequest (j : Fin 4) (c : CopySlot) : (s.setSlot j c).mRequest = s.mRequest := rfl
@[simp] theorem State.setSlot_pPassed (j : Fin 4) (c : CopySlot) : (s.setSlot j c).pPassed = s.pPassed := rfl
@[simp] theorem State.setSlot_cPassed (j : Fin 4) (c : CopySlot) : (s.setSlot j c).cPassed = s.cPassed := rfl
@[simp] theorem State.setSlot_devConds (j : Fin 4) (c : CopySlot) : (s.setSlot j c).devConds = s.devConds := rfl
@[simp] theorem State.setSlot_holdLimit (j : Fin 4) (c : CopySlot) : (s.setSlot j c).holdLimit = s.holdLimit := rfl
@[simp] theorem State.setSlot_floor (j : Fin 4) (c : CopySlot) : (s.setSlot j c).floor = s.floor := rfl
@[simp] theorem State.setSlot_refuseUnmatched (j : Fin 4) (c : CopySlot) : (s.setSlot j c).refuseUnmatched = s.refuseUnmatched := rfl
@[simp] theorem State.setSlot_attnMask (j : Fin 4) (c : CopySlot) : (s.setSlot j c).attnMask = s.attnMask := rfl
@[simp] theorem State.setSlot_softReset (j : Fin 4) (c : CopySlot) : (s.setSlot j c).softReset = s.softReset := rfl
@[simp] theorem State.setSlot_reply (j : Fin 4) (c : CopySlot) : (s.setSlot j c).reply = s.reply := rfl
@[simp] theorem State.setSlot_freeCount (j : Fin 4) (c : CopySlot) : (s.setSlot j c).freeCount = s.freeCount := rfl
@[simp] theorem State.setSlot_region? (j : Fin 4) (c : CopySlot) (i : SlotNo) : (s.setSlot j c).region? i = s.region? i := rfl
@[simp] theorem State.setSlot_frame (j : Fin 4) (c : CopySlot) : (s.setSlot j c).frame = s.frame := rfl

/-! ### giveUpSlots -/

@[simp] theorem State.giveUpSlots_pending (k : SlotNo) : (s.giveUpSlots k).pending = s.pending := rfl
@[simp] theorem State.giveUpSlots_resetn (k : SlotNo) : (s.giveUpSlots k).resetn = s.resetn := rfl
@[simp] theorem State.giveUpSlots_timeBase (k : SlotNo) : (s.giveUpSlots k).timeBase = s.timeBase := rfl
@[simp] theorem State.giveUpSlots_pTracker (k : SlotNo) : (s.giveUpSlots k).pTracker = s.pTracker := rfl
@[simp] theorem State.giveUpSlots_sTracker (k : SlotNo) : (s.giveUpSlots k).sTracker = s.sTracker := rfl
@[simp] theorem State.giveUpSlots_table (k : SlotNo) : (s.giveUpSlots k).table = s.table := rfl
@[simp] theorem State.giveUpSlots_queue (k : SlotNo) : (s.giveUpSlots k).queue = s.queue := rfl
@[simp] theorem State.giveUpSlots_replay (k : SlotNo) : (s.giveUpSlots k).replay = s.replay := rfl
@[simp] theorem State.giveUpSlots_demand (k : SlotNo) : (s.giveUpSlots k).demand = s.demand := rfl
@[simp] theorem State.giveUpSlots_rrPtr (k : SlotNo) : (s.giveUpSlots k).rrPtr = s.rrPtr := rfl
@[simp] theorem State.giveUpSlots_ready (k : SlotNo) : (s.giveUpSlots k).ready = s.ready := rfl
@[simp] theorem State.giveUpSlots_readyNow (k : SlotNo) : (s.giveUpSlots k).readyNow = s.readyNow := rfl
@[simp] theorem State.giveUpSlots_presented (k : SlotNo) : (s.giveUpSlots k).presented = s.presented := rfl
@[simp] theorem State.giveUpSlots_outstanding (k : SlotNo) : (s.giveUpSlots k).outstanding = s.outstanding := rfl
@[simp] theorem State.giveUpSlots_mRequest (k : SlotNo) : (s.giveUpSlots k).mRequest = s.mRequest := rfl
@[simp] theorem State.giveUpSlots_pPassed (k : SlotNo) : (s.giveUpSlots k).pPassed = s.pPassed := rfl
@[simp] theorem State.giveUpSlots_cPassed (k : SlotNo) : (s.giveUpSlots k).cPassed = s.cPassed := rfl
@[simp] theorem State.giveUpSlots_devConds (k : SlotNo) : (s.giveUpSlots k).devConds = s.devConds := rfl
@[simp] theorem State.giveUpSlots_holdLimit (k : SlotNo) : (s.giveUpSlots k).holdLimit = s.holdLimit := rfl
@[simp] theorem State.giveUpSlots_floor (k : SlotNo) : (s.giveUpSlots k).floor = s.floor := rfl
@[simp] theorem State.giveUpSlots_refuseUnmatched (k : SlotNo) : (s.giveUpSlots k).refuseUnmatched = s.refuseUnmatched := rfl
@[simp] theorem State.giveUpSlots_attnMask (k : SlotNo) : (s.giveUpSlots k).attnMask = s.attnMask := rfl
@[simp] theorem State.giveUpSlots_softReset (k : SlotNo) : (s.giveUpSlots k).softReset = s.softReset := rfl
@[simp] theorem State.giveUpSlots_reply (k : SlotNo) : (s.giveUpSlots k).reply = s.reply := rfl
@[simp] theorem State.giveUpSlots_freeCount (k : SlotNo) : (s.giveUpSlots k).freeCount = s.freeCount := rfl
@[simp] theorem State.giveUpSlots_region? (k : SlotNo) (i : SlotNo) : (s.giveUpSlots k).region? i = s.region? i := rfl
@[simp] theorem State.giveUpSlots_frame (k : SlotNo) : (s.giveUpSlots k).frame = s.frame := rfl

/-! ### answer -/

@[simp] theorem State.answer_pending (n : Nat) (r : Result) (d : List Byte) : (s.answer n r d).pending = s.pending := rfl
@[simp] theorem State.answer_resetn (n : Nat) (r : Result) (d : List Byte) : (s.answer n r d).resetn = s.resetn := rfl
@[simp] theorem State.answer_timeBase (n : Nat) (r : Result) (d : List Byte) : (s.answer n r d).timeBase = s.timeBase := rfl
@[simp] theorem State.answer_pTracker (n : Nat) (r : Result) (d : List Byte) : (s.answer n r d).pTracker = s.pTracker := rfl
@[simp] theorem State.answer_sTracker (n : Nat) (r : Result) (d : List Byte) : (s.answer n r d).sTracker = s.sTracker := rfl
@[simp] theorem State.answer_table (n : Nat) (r : Result) (d : List Byte) : (s.answer n r d).table = s.table := rfl
@[simp] theorem State.answer_queue (n : Nat) (r : Result) (d : List Byte) : (s.answer n r d).queue = s.queue := rfl
@[simp] theorem State.answer_replay (n : Nat) (r : Result) (d : List Byte) : (s.answer n r d).replay = s.replay := rfl
@[simp] theorem State.answer_slots (n : Nat) (r : Result) (d : List Byte) : (s.answer n r d).slots = s.slots := rfl
@[simp] theorem State.answer_demand (n : Nat) (r : Result) (d : List Byte) : (s.answer n r d).demand = s.demand := rfl
@[simp] theorem State.answer_rrPtr (n : Nat) (r : Result) (d : List Byte) : (s.answer n r d).rrPtr = s.rrPtr := rfl
@[simp] theorem State.answer_ready (n : Nat) (r : Result) (d : List Byte) : (s.answer n r d).ready = s.ready := rfl
@[simp] theorem State.answer_readyNow (n : Nat) (r : Result) (d : List Byte) : (s.answer n r d).readyNow = s.readyNow := rfl
@[simp] theorem State.answer_presented (n : Nat) (r : Result) (d : List Byte) : (s.answer n r d).presented = s.presented := rfl
@[simp] theorem State.answer_outstanding (n : Nat) (r : Result) (d : List Byte) : (s.answer n r d).outstanding = s.outstanding := rfl
@[simp] theorem State.answer_mRequest (n : Nat) (r : Result) (d : List Byte) : (s.answer n r d).mRequest = s.mRequest := rfl
@[simp] theorem State.answer_pPassed (n : Nat) (r : Result) (d : List Byte) : (s.answer n r d).pPassed = s.pPassed := rfl
@[simp] theorem State.answer_cPassed (n : Nat) (r : Result) (d : List Byte) : (s.answer n r d).cPassed = s.cPassed := rfl
@[simp] theorem State.answer_devConds (n : Nat) (r : Result) (d : List Byte) : (s.answer n r d).devConds = s.devConds := rfl
@[simp] theorem State.answer_holdLimit (n : Nat) (r : Result) (d : List Byte) : (s.answer n r d).holdLimit = s.holdLimit := rfl
@[simp] theorem State.answer_floor (n : Nat) (r : Result) (d : List Byte) : (s.answer n r d).floor = s.floor := rfl
@[simp] theorem State.answer_refuseUnmatched (n : Nat) (r : Result) (d : List Byte) : (s.answer n r d).refuseUnmatched = s.refuseUnmatched := rfl
@[simp] theorem State.answer_attnMask (n : Nat) (r : Result) (d : List Byte) : (s.answer n r d).attnMask = s.attnMask := rfl
@[simp] theorem State.answer_softReset (n : Nat) (r : Result) (d : List Byte) : (s.answer n r d).softReset = s.softReset := rfl
@[simp] theorem State.answer_reply (n : Nat) (r : Result) (d : List Byte) : (s.answer n r d).reply = some { lead := n + 3, result := r, data := d } := rfl
@[simp] theorem State.answer_freeCount (n : Nat) (r : Result) (d : List Byte) : (s.answer n r d).freeCount = s.freeCount := rfl
@[simp] theorem State.answer_region? (n : Nat) (r : Result) (d : List Byte) (i : SlotNo) : (s.answer n r d).region? i = s.region? i := rfl

/-! ### setDevCond -/

@[simp] theorem State.setDevCond_pending (c : CondKind) : (s.setDevCond c).pending = s.pending := rfl
@[simp] theorem State.setDevCond_resetn (c : CondKind) : (s.setDevCond c).resetn = s.resetn := rfl
@[simp] theorem State.setDevCond_timeBase (c : CondKind) : (s.setDevCond c).timeBase = s.timeBase := rfl
@[simp] theorem State.setDevCond_pTracker (c : CondKind) : (s.setDevCond c).pTracker = s.pTracker := rfl
@[simp] theorem State.setDevCond_sTracker (c : CondKind) : (s.setDevCond c).sTracker = s.sTracker := rfl
@[simp] theorem State.setDevCond_table (c : CondKind) : (s.setDevCond c).table = s.table := rfl
@[simp] theorem State.setDevCond_queue (c : CondKind) : (s.setDevCond c).queue = s.queue := rfl
@[simp] theorem State.setDevCond_replay (c : CondKind) : (s.setDevCond c).replay = s.replay := rfl
@[simp] theorem State.setDevCond_slots (c : CondKind) : (s.setDevCond c).slots = s.slots := rfl
@[simp] theorem State.setDevCond_demand (c : CondKind) : (s.setDevCond c).demand = s.demand := rfl
@[simp] theorem State.setDevCond_rrPtr (c : CondKind) : (s.setDevCond c).rrPtr = s.rrPtr := rfl
@[simp] theorem State.setDevCond_ready (c : CondKind) : (s.setDevCond c).ready = s.ready := rfl
@[simp] theorem State.setDevCond_readyNow (c : CondKind) : (s.setDevCond c).readyNow = s.readyNow := rfl
@[simp] theorem State.setDevCond_presented (c : CondKind) : (s.setDevCond c).presented = s.presented := rfl
@[simp] theorem State.setDevCond_outstanding (c : CondKind) : (s.setDevCond c).outstanding = s.outstanding := rfl
@[simp] theorem State.setDevCond_mRequest (c : CondKind) : (s.setDevCond c).mRequest = s.mRequest := rfl
@[simp] theorem State.setDevCond_pPassed (c : CondKind) : (s.setDevCond c).pPassed = s.pPassed := rfl
@[simp] theorem State.setDevCond_cPassed (c : CondKind) : (s.setDevCond c).cPassed = s.cPassed := rfl
@[simp] theorem State.setDevCond_devConds (c : CondKind) : (s.setDevCond c).devConds = setKind s.devConds c := rfl
@[simp] theorem State.setDevCond_holdLimit (c : CondKind) : (s.setDevCond c).holdLimit = s.holdLimit := rfl
@[simp] theorem State.setDevCond_floor (c : CondKind) : (s.setDevCond c).floor = s.floor := rfl
@[simp] theorem State.setDevCond_refuseUnmatched (c : CondKind) : (s.setDevCond c).refuseUnmatched = s.refuseUnmatched := rfl
@[simp] theorem State.setDevCond_attnMask (c : CondKind) : (s.setDevCond c).attnMask = s.attnMask := rfl
@[simp] theorem State.setDevCond_softReset (c : CondKind) : (s.setDevCond c).softReset = s.softReset := rfl
@[simp] theorem State.setDevCond_reply (c : CondKind) : (s.setDevCond c).reply = s.reply := rfl
@[simp] theorem State.setDevCond_freeCount (c : CondKind) : (s.setDevCond c).freeCount = s.freeCount := rfl
@[simp] theorem State.setDevCond_region? (c : CondKind) (i : SlotNo) : (s.setDevCond c).region? i = s.region? i := rfl
@[simp] theorem State.setDevCond_frame (c : CondKind) : (s.setDevCond c).frame = s.frame := rfl

/-! ### sendOut -/

@[simp] theorem State.sendOut_pending (o : Owner) (r : MRequest) : (s.sendOut o r).pending = s.pending := rfl
@[simp] theorem State.sendOut_resetn (o : Owner) (r : MRequest) : (s.sendOut o r).resetn = s.resetn := rfl
@[simp] theorem State.sendOut_timeBase (o : Owner) (r : MRequest) : (s.sendOut o r).timeBase = s.timeBase := rfl
@[simp] theorem State.sendOut_pTracker (o : Owner) (r : MRequest) : (s.sendOut o r).pTracker = s.pTracker := rfl
@[simp] theorem State.sendOut_sTracker (o : Owner) (r : MRequest) : (s.sendOut o r).sTracker = s.sTracker := rfl
@[simp] theorem State.sendOut_table (o : Owner) (r : MRequest) : (s.sendOut o r).table = s.table := rfl
@[simp] theorem State.sendOut_queue (o : Owner) (r : MRequest) : (s.sendOut o r).queue = s.queue := rfl
@[simp] theorem State.sendOut_replay (o : Owner) (r : MRequest) : (s.sendOut o r).replay = s.replay := rfl
@[simp] theorem State.sendOut_slots (o : Owner) (r : MRequest) : (s.sendOut o r).slots = s.slots := rfl
@[simp] theorem State.sendOut_demand (o : Owner) (r : MRequest) : (s.sendOut o r).demand = s.demand := rfl
@[simp] theorem State.sendOut_rrPtr (o : Owner) (r : MRequest) : (s.sendOut o r).rrPtr = s.rrPtr := rfl
@[simp] theorem State.sendOut_ready (o : Owner) (r : MRequest) : (s.sendOut o r).ready = s.ready := rfl
@[simp] theorem State.sendOut_readyNow (o : Owner) (r : MRequest) : (s.sendOut o r).readyNow = s.readyNow := rfl
@[simp] theorem State.sendOut_presented (o : Owner) (r : MRequest) : (s.sendOut o r).presented = s.presented := rfl
@[simp] theorem State.sendOut_outstanding (o : Owner) (r : MRequest) : (s.sendOut o r).outstanding = s.outstanding ++ [{ owner := o, kind := r.kind, length := r.length }] := rfl
@[simp] theorem State.sendOut_mRequest (o : Owner) (r : MRequest) : (s.sendOut o r).mRequest = some r := rfl
@[simp] theorem State.sendOut_pPassed (o : Owner) (r : MRequest) : (s.sendOut o r).pPassed = s.pPassed := rfl
@[simp] theorem State.sendOut_cPassed (o : Owner) (r : MRequest) : (s.sendOut o r).cPassed = s.cPassed := rfl
@[simp] theorem State.sendOut_devConds (o : Owner) (r : MRequest) : (s.sendOut o r).devConds = s.devConds := rfl
@[simp] theorem State.sendOut_holdLimit (o : Owner) (r : MRequest) : (s.sendOut o r).holdLimit = s.holdLimit := rfl
@[simp] theorem State.sendOut_floor (o : Owner) (r : MRequest) : (s.sendOut o r).floor = s.floor := rfl
@[simp] theorem State.sendOut_refuseUnmatched (o : Owner) (r : MRequest) : (s.sendOut o r).refuseUnmatched = s.refuseUnmatched := rfl
@[simp] theorem State.sendOut_attnMask (o : Owner) (r : MRequest) : (s.sendOut o r).attnMask = s.attnMask := rfl
@[simp] theorem State.sendOut_softReset (o : Owner) (r : MRequest) : (s.sendOut o r).softReset = s.softReset := rfl
@[simp] theorem State.sendOut_reply (o : Owner) (r : MRequest) : (s.sendOut o r).reply = s.reply := rfl
@[simp] theorem State.sendOut_freeCount (o : Owner) (r : MRequest) : (s.sendOut o r).freeCount = s.freeCount := rfl
@[simp] theorem State.sendOut_region? (o : Owner) (r : MRequest) (i : SlotNo) : (s.sendOut o r).region? i = s.region? i := rfl
@[simp] theorem State.sendOut_frame (o : Owner) (r : MRequest) : (s.sendOut o r).frame = s.frame := rfl

/-! ### countPassed -/

@[simp] theorem State.countPassed_pending (x : Position) : (s.countPassed x).pending = s.pending := rfl
@[simp] theorem State.countPassed_resetn (x : Position) : (s.countPassed x).resetn = s.resetn := rfl
@[simp] theorem State.countPassed_timeBase (x : Position) : (s.countPassed x).timeBase = s.timeBase := rfl
@[simp] theorem State.countPassed_pTracker (x : Position) : (s.countPassed x).pTracker = s.pTracker := rfl
@[simp] theorem State.countPassed_sTracker (x : Position) : (s.countPassed x).sTracker = s.sTracker := rfl
@[simp] theorem State.countPassed_table (x : Position) : (s.countPassed x).table = s.table := rfl
@[simp] theorem State.countPassed_queue (x : Position) : (s.countPassed x).queue = s.queue := rfl
@[simp] theorem State.countPassed_replay (x : Position) : (s.countPassed x).replay = s.replay := rfl
@[simp] theorem State.countPassed_slots (x : Position) : (s.countPassed x).slots = s.slots := rfl
@[simp] theorem State.countPassed_demand (x : Position) : (s.countPassed x).demand = s.demand := rfl
@[simp] theorem State.countPassed_rrPtr (x : Position) : (s.countPassed x).rrPtr = s.rrPtr := rfl
@[simp] theorem State.countPassed_ready (x : Position) : (s.countPassed x).ready = s.ready := rfl
@[simp] theorem State.countPassed_readyNow (x : Position) : (s.countPassed x).readyNow = s.readyNow := rfl
@[simp] theorem State.countPassed_presented (x : Position) : (s.countPassed x).presented = s.presented := rfl
@[simp] theorem State.countPassed_outstanding (x : Position) : (s.countPassed x).outstanding = s.outstanding := rfl
@[simp] theorem State.countPassed_mRequest (x : Position) : (s.countPassed x).mRequest = s.mRequest := rfl
@[simp] theorem State.countPassed_pPassed (x : Position) : (s.countPassed x).pPassed = passedOver s.pPassed (s.presents .p).isSome (x == .p) := rfl
@[simp] theorem State.countPassed_cPassed (x : Position) : (s.countPassed x).cPassed = passedOver s.cPassed s.presented.isSome (x == .engine) := rfl
@[simp] theorem State.countPassed_devConds (x : Position) : (s.countPassed x).devConds = s.devConds := rfl
@[simp] theorem State.countPassed_holdLimit (x : Position) : (s.countPassed x).holdLimit = s.holdLimit := rfl
@[simp] theorem State.countPassed_floor (x : Position) : (s.countPassed x).floor = s.floor := rfl
@[simp] theorem State.countPassed_refuseUnmatched (x : Position) : (s.countPassed x).refuseUnmatched = s.refuseUnmatched := rfl
@[simp] theorem State.countPassed_attnMask (x : Position) : (s.countPassed x).attnMask = s.attnMask := rfl
@[simp] theorem State.countPassed_softReset (x : Position) : (s.countPassed x).softReset = s.softReset := rfl
@[simp] theorem State.countPassed_reply (x : Position) : (s.countPassed x).reply = s.reply := rfl
@[simp] theorem State.countPassed_freeCount (x : Position) : (s.countPassed x).freeCount = s.freeCount := rfl
@[simp] theorem State.countPassed_region? (x : Position) (i : SlotNo) : (s.countPassed x).region? i = s.region? i := rfl
@[simp] theorem State.countPassed_frame (x : Position) : (s.countPassed x).frame = s.frame := rfl

/-! ### commitReady -/

@[simp] theorem State.commitReady_pending : (s.commitReady).pending = s.pending := rfl
@[simp] theorem State.commitReady_resetn : (s.commitReady).resetn = s.resetn := rfl
@[simp] theorem State.commitReady_timeBase : (s.commitReady).timeBase = s.timeBase := rfl
@[simp] theorem State.commitReady_pTracker : (s.commitReady).pTracker = s.pTracker := rfl
@[simp] theorem State.commitReady_sTracker : (s.commitReady).sTracker = s.sTracker := rfl
@[simp] theorem State.commitReady_table : (s.commitReady).table = s.table := rfl
@[simp] theorem State.commitReady_queue : (s.commitReady).queue = s.queue := rfl
@[simp] theorem State.commitReady_replay : (s.commitReady).replay = s.replay := rfl
@[simp] theorem State.commitReady_slots : (s.commitReady).slots = s.slots := rfl
@[simp] theorem State.commitReady_demand : (s.commitReady).demand = s.demand := rfl
@[simp] theorem State.commitReady_rrPtr : (s.commitReady).rrPtr = s.rrPtr := rfl
@[simp] theorem State.commitReady_ready : (s.commitReady).ready = s.ready ++ s.readyNow := rfl
@[simp] theorem State.commitReady_readyNow : (s.commitReady).readyNow = [] := rfl
@[simp] theorem State.commitReady_presented : (s.commitReady).presented = s.presented := rfl
@[simp] theorem State.commitReady_outstanding : (s.commitReady).outstanding = s.outstanding := rfl
@[simp] theorem State.commitReady_mRequest : (s.commitReady).mRequest = s.mRequest := rfl
@[simp] theorem State.commitReady_pPassed : (s.commitReady).pPassed = s.pPassed := rfl
@[simp] theorem State.commitReady_cPassed : (s.commitReady).cPassed = s.cPassed := rfl
@[simp] theorem State.commitReady_devConds : (s.commitReady).devConds = s.devConds := rfl
@[simp] theorem State.commitReady_holdLimit : (s.commitReady).holdLimit = s.holdLimit := rfl
@[simp] theorem State.commitReady_floor : (s.commitReady).floor = s.floor := rfl
@[simp] theorem State.commitReady_refuseUnmatched : (s.commitReady).refuseUnmatched = s.refuseUnmatched := rfl
@[simp] theorem State.commitReady_attnMask : (s.commitReady).attnMask = s.attnMask := rfl
@[simp] theorem State.commitReady_softReset : (s.commitReady).softReset = s.softReset := rfl
@[simp] theorem State.commitReady_reply : (s.commitReady).reply = s.reply := rfl
@[simp] theorem State.commitReady_freeCount : (s.commitReady).freeCount = s.freeCount := rfl
@[simp] theorem State.commitReady_region? (i : SlotNo) : (s.commitReady).region? i = s.region? i := rfl
@[simp] theorem State.commitReady_frame : (s.commitReady).frame = s.frame := rfl

/-! ### endSoftReset -/

@[simp] theorem State.endSoftReset_pending : (s.endSoftReset).pending = s.pending := rfl
@[simp] theorem State.endSoftReset_resetn : (s.endSoftReset).resetn = s.resetn := rfl
@[simp] theorem State.endSoftReset_timeBase : (s.endSoftReset).timeBase = s.timeBase := rfl
@[simp] theorem State.endSoftReset_pTracker : (s.endSoftReset).pTracker = s.pTracker := rfl
@[simp] theorem State.endSoftReset_sTracker : (s.endSoftReset).sTracker = s.sTracker := rfl
@[simp] theorem State.endSoftReset_table : (s.endSoftReset).table = s.table := rfl
@[simp] theorem State.endSoftReset_queue : (s.endSoftReset).queue = s.queue := rfl
@[simp] theorem State.endSoftReset_replay : (s.endSoftReset).replay = s.replay := rfl
@[simp] theorem State.endSoftReset_slots : (s.endSoftReset).slots = s.slots := rfl
@[simp] theorem State.endSoftReset_demand : (s.endSoftReset).demand = s.demand := rfl
@[simp] theorem State.endSoftReset_rrPtr : (s.endSoftReset).rrPtr = s.rrPtr := rfl
@[simp] theorem State.endSoftReset_ready : (s.endSoftReset).ready = s.ready := rfl
@[simp] theorem State.endSoftReset_readyNow : (s.endSoftReset).readyNow = s.readyNow := rfl
@[simp] theorem State.endSoftReset_presented : (s.endSoftReset).presented = s.presented := rfl
@[simp] theorem State.endSoftReset_outstanding : (s.endSoftReset).outstanding = s.outstanding := rfl
@[simp] theorem State.endSoftReset_mRequest : (s.endSoftReset).mRequest = s.mRequest := rfl
@[simp] theorem State.endSoftReset_pPassed : (s.endSoftReset).pPassed = s.pPassed := rfl
@[simp] theorem State.endSoftReset_cPassed : (s.endSoftReset).cPassed = s.cPassed := rfl
@[simp] theorem State.endSoftReset_devConds : (s.endSoftReset).devConds = setKind s.devConds .resetDone := rfl
@[simp] theorem State.endSoftReset_holdLimit : (s.endSoftReset).holdLimit = s.holdLimit := rfl
@[simp] theorem State.endSoftReset_floor : (s.endSoftReset).floor = s.floor := rfl
@[simp] theorem State.endSoftReset_refuseUnmatched : (s.endSoftReset).refuseUnmatched = s.refuseUnmatched := rfl
@[simp] theorem State.endSoftReset_attnMask : (s.endSoftReset).attnMask = s.attnMask := rfl
@[simp] theorem State.endSoftReset_softReset : (s.endSoftReset).softReset = false := rfl
@[simp] theorem State.endSoftReset_reply : (s.endSoftReset).reply = s.reply := rfl
@[simp] theorem State.endSoftReset_freeCount : (s.endSoftReset).freeCount = s.freeCount := rfl
@[simp] theorem State.endSoftReset_region? (i : SlotNo) : (s.endSoftReset).region? i = s.region? i := rfl
@[simp] theorem State.endSoftReset_frame : (s.endSoftReset).frame = s.frame := rfl

/-! ### setTracker, by port -/

@[simp] theorem State.setTracker_p_pending (l : List Tx) : (s.setTracker .p l).pending = s.pending := rfl
@[simp] theorem State.setTracker_p_resetn (l : List Tx) : (s.setTracker .p l).resetn = s.resetn := rfl
@[simp] theorem State.setTracker_p_timeBase (l : List Tx) : (s.setTracker .p l).timeBase = s.timeBase := rfl
@[simp] theorem State.setTracker_p_pTracker (l : List Tx) : (s.setTracker .p l).pTracker = l := rfl
@[simp] theorem State.setTracker_p_sTracker (l : List Tx) : (s.setTracker .p l).sTracker = s.sTracker := rfl
@[simp] theorem State.setTracker_p_table (l : List Tx) : (s.setTracker .p l).table = s.table := rfl
@[simp] theorem State.setTracker_p_queue (l : List Tx) : (s.setTracker .p l).queue = s.queue := rfl
@[simp] theorem State.setTracker_p_replay (l : List Tx) : (s.setTracker .p l).replay = s.replay := rfl
@[simp] theorem State.setTracker_p_slots (l : List Tx) : (s.setTracker .p l).slots = s.slots := rfl
@[simp] theorem State.setTracker_p_demand (l : List Tx) : (s.setTracker .p l).demand = s.demand := rfl
@[simp] theorem State.setTracker_p_rrPtr (l : List Tx) : (s.setTracker .p l).rrPtr = s.rrPtr := rfl
@[simp] theorem State.setTracker_p_ready (l : List Tx) : (s.setTracker .p l).ready = s.ready := rfl
@[simp] theorem State.setTracker_p_readyNow (l : List Tx) : (s.setTracker .p l).readyNow = s.readyNow := rfl
@[simp] theorem State.setTracker_p_presented (l : List Tx) : (s.setTracker .p l).presented = s.presented := rfl
@[simp] theorem State.setTracker_p_outstanding (l : List Tx) : (s.setTracker .p l).outstanding = s.outstanding := rfl
@[simp] theorem State.setTracker_p_mRequest (l : List Tx) : (s.setTracker .p l).mRequest = s.mRequest := rfl
@[simp] theorem State.setTracker_p_pPassed (l : List Tx) : (s.setTracker .p l).pPassed = s.pPassed := rfl
@[simp] theorem State.setTracker_p_cPassed (l : List Tx) : (s.setTracker .p l).cPassed = s.cPassed := rfl
@[simp] theorem State.setTracker_p_devConds (l : List Tx) : (s.setTracker .p l).devConds = s.devConds := rfl
@[simp] theorem State.setTracker_p_holdLimit (l : List Tx) : (s.setTracker .p l).holdLimit = s.holdLimit := rfl
@[simp] theorem State.setTracker_p_floor (l : List Tx) : (s.setTracker .p l).floor = s.floor := rfl
@[simp] theorem State.setTracker_p_refuseUnmatched (l : List Tx) : (s.setTracker .p l).refuseUnmatched = s.refuseUnmatched := rfl
@[simp] theorem State.setTracker_p_attnMask (l : List Tx) : (s.setTracker .p l).attnMask = s.attnMask := rfl
@[simp] theorem State.setTracker_p_softReset (l : List Tx) : (s.setTracker .p l).softReset = s.softReset := rfl
@[simp] theorem State.setTracker_p_reply (l : List Tx) : (s.setTracker .p l).reply = s.reply := rfl
@[simp] theorem State.setTracker_p_freeCount (l : List Tx) : (s.setTracker .p l).freeCount = s.freeCount := rfl
@[simp] theorem State.setTracker_s_pending (l : List Tx) : (s.setTracker .s l).pending = s.pending := rfl
@[simp] theorem State.setTracker_s_resetn (l : List Tx) : (s.setTracker .s l).resetn = s.resetn := rfl
@[simp] theorem State.setTracker_s_timeBase (l : List Tx) : (s.setTracker .s l).timeBase = s.timeBase := rfl
@[simp] theorem State.setTracker_s_pTracker (l : List Tx) : (s.setTracker .s l).pTracker = s.pTracker := rfl
@[simp] theorem State.setTracker_s_sTracker (l : List Tx) : (s.setTracker .s l).sTracker = l := rfl
@[simp] theorem State.setTracker_s_table (l : List Tx) : (s.setTracker .s l).table = s.table := rfl
@[simp] theorem State.setTracker_s_queue (l : List Tx) : (s.setTracker .s l).queue = s.queue := rfl
@[simp] theorem State.setTracker_s_replay (l : List Tx) : (s.setTracker .s l).replay = s.replay := rfl
@[simp] theorem State.setTracker_s_slots (l : List Tx) : (s.setTracker .s l).slots = s.slots := rfl
@[simp] theorem State.setTracker_s_demand (l : List Tx) : (s.setTracker .s l).demand = s.demand := rfl
@[simp] theorem State.setTracker_s_rrPtr (l : List Tx) : (s.setTracker .s l).rrPtr = s.rrPtr := rfl
@[simp] theorem State.setTracker_s_ready (l : List Tx) : (s.setTracker .s l).ready = s.ready := rfl
@[simp] theorem State.setTracker_s_readyNow (l : List Tx) : (s.setTracker .s l).readyNow = s.readyNow := rfl
@[simp] theorem State.setTracker_s_presented (l : List Tx) : (s.setTracker .s l).presented = s.presented := rfl
@[simp] theorem State.setTracker_s_outstanding (l : List Tx) : (s.setTracker .s l).outstanding = s.outstanding := rfl
@[simp] theorem State.setTracker_s_mRequest (l : List Tx) : (s.setTracker .s l).mRequest = s.mRequest := rfl
@[simp] theorem State.setTracker_s_pPassed (l : List Tx) : (s.setTracker .s l).pPassed = s.pPassed := rfl
@[simp] theorem State.setTracker_s_cPassed (l : List Tx) : (s.setTracker .s l).cPassed = s.cPassed := rfl
@[simp] theorem State.setTracker_s_devConds (l : List Tx) : (s.setTracker .s l).devConds = s.devConds := rfl
@[simp] theorem State.setTracker_s_holdLimit (l : List Tx) : (s.setTracker .s l).holdLimit = s.holdLimit := rfl
@[simp] theorem State.setTracker_s_floor (l : List Tx) : (s.setTracker .s l).floor = s.floor := rfl
@[simp] theorem State.setTracker_s_refuseUnmatched (l : List Tx) : (s.setTracker .s l).refuseUnmatched = s.refuseUnmatched := rfl
@[simp] theorem State.setTracker_s_attnMask (l : List Tx) : (s.setTracker .s l).attnMask = s.attnMask := rfl
@[simp] theorem State.setTracker_s_softReset (l : List Tx) : (s.setTracker .s l).softReset = s.softReset := rfl
@[simp] theorem State.setTracker_s_reply (l : List Tx) : (s.setTracker .s l).reply = s.reply := rfl
@[simp] theorem State.setTracker_s_freeCount (l : List Tx) : (s.setTracker .s l).freeCount = s.freeCount := rfl

theorem State.setTracker_eq_p (l : List Tx) : s.setTracker .p l = { s with pTracker := l } := rfl
theorem State.setTracker_eq_s (l : List Tx) : s.setTracker .s l = { s with sTracker := l } := rfl
@[simp] theorem State.setTracker_region? (port : Port) (l : List Tx) (i : SlotNo) :
    (s.setTracker port l).region? i = s.region? i := by cases port <;> rfl
@[simp] theorem State.setTracker_tracker (port : Port) (l : List Tx) : (s.setTracker port l).tracker port = l := by
  cases port <;> rfl
@[simp] theorem State.setTracker_frame (port : Port) (l : List Tx) : (s.setTracker port l).frame = s.frame := by
  cases port <;> rfl
@[simp] theorem State.addTx_region? (port : Port) (req : Request) (r b p st c) (i : SlotNo) :
    (s.addTx port req r b p st c).region? i = s.region? i := by cases port <;> rfl
@[simp] theorem State.addTx_frame (port : Port) (req : Request) (r b p st c) :
    (s.addTx port req r b p st c).frame = s.frame := by cases port <;> rfl

end Sys2Proof.Machine
end

