-- ==== Sys2Proof/Laws/Region.lean ====
section
/-! SUPPORT. Reading the region table after it is written, and the small lemmas of a region record. -/

namespace Sys2Proof.Machine

variable (s : State)

/-! ### The region table -/

@[simp] theorem State.region?_putRegion_self (k : SlotNo) (g : Option Region) :
    (s.putRegion k g).region? k = g := by
  simp [State.region?, State.putRegion]

theorem State.region?_putRegion_ne (k j : SlotNo) (g : Option Region) (h : j ≠ k) :
    (s.putRegion k g).region? j = s.region? j := by
  have : k.val ≠ j.val := fun e => h (Fin.ext e.symm)
  simp [State.region?, State.putRegion, Vector.getElem_set_ne _ _ this]

theorem State.region?_putRegion (k j : SlotNo) (g : Option Region) :
    (s.putRegion k g).region? j = if j = k then g else s.region? j := by
  split
  · subst j; simp
  · exact s.region?_putRegion_ne k j g ‹_›

theorem State.region?_modRegion (k j : SlotNo) (f : Region → Region) :
    (s.modRegion k f).region? j = if j = k then (s.region? k).map f else s.region? j := by
  simp [State.modRegion, State.region?_putRegion]

@[simp] theorem State.region?_modRegion_self (k : SlotNo) (f : Region → Region) :
    (s.modRegion k f).region? k = (s.region? k).map f := by
  simp [State.region?_modRegion]

@[simp] theorem State.region?_mapRegions (f : SlotNo → Region → Region) (k : SlotNo) :
    (s.mapRegions f).region? k = (s.region? k).map (f k) := by
  simp [State.region?, State.mapRegions]

/-- Writing back what stands in the slot changes nothing. -/
theorem State.putRegion_same (k : SlotNo) : s.putRegion k (s.region? k) = s := by
  cases s
  simp [State.putRegion, State.region?]

theorem State.modRegion_of_some (k : SlotNo) (f : Region → Region) (g : Region) (h : s.region? k = some g) :
    s.modRegion k f = s.putRegion k (some (f g)) := by
  simp [State.modRegion, h]

theorem State.modRegion_of_none (k : SlotNo) (f : Region → Region) (h : s.region? k = none) :
    s.modRegion k f = s := by
  have := s.putRegion_same k
  simpa [State.modRegion, h] using this

theorem State.modRegion_fixed (k : SlotNo) (f : Region → Region) (hf : ∀ g ∈ s.region? k, f g = g) :
    s.modRegion k f = s := by
  cases h : s.region? k with
  | none => exact s.modRegion_of_none k f h
  | some g =>
    rw [s.modRegion_of_some k f g h, hf g (by simp [h]), ← h]
    exact s.putRegion_same k

theorem State.modCycle_of_some (k : SlotNo) (f : Cycle → Cycle) (g : Region) (c : Cycle)
    (h : s.region? k = some g) (hc : g.cycle = some c) :
    s.modCycle k f = s.putRegion k (some (g.withCycle (f c))) := by
  simp [State.modCycle, s.modRegion_of_some k _ g h, Region.modCycle, Region.withCycle, hc]

theorem State.ext_region? {t : State} (h : ∀ k, s.region? k = t.region? k) : s.table = t.table := by
  apply Vector.ext
  intro i hi
  exact h ⟨i, hi⟩

/-- A state whose records `f` leaves alone is left alone. -/
theorem State.mapRegions_fixed (f : SlotNo → Region → Region) (hf : ∀ k, ∀ g ∈ s.region? k, f k g = g) :
    s.mapRegions f = s := by
  have : (s.mapRegions f).table = s.table := by
    apply State.ext_region?
    intro k
    rw [s.region?_mapRegions]
    cases h : s.region? k with
    | none => rfl
    | some g => simp [hf k g (by simp [h])]
  cases s
  simpa [State.mapRegions] using this

/-! ### Records -/

@[simp] theorem Region.modCycle_cycle (g : Region) (f : Cycle → Cycle) : (g.modCycle f).cycle = g.cycle.map f := rfl
@[simp] theorem Region.modCycle_defn (g : Region) (f : Cycle → Cycle) : (g.modCycle f).defn = g.defn := rfl
@[simp] theorem Region.modCycle_life (g : Region) (f : Cycle → Cycle) : (g.modCycle f).life = g.life := rfl
@[simp] theorem Region.modCycle_health (g : Region) (f : Cycle → Cycle) : (g.modCycle f).health = g.health := rfl
@[simp] theorem Region.modCycle_score (g : Region) (f : Cycle → Cycle) : (g.modCycle f).score = g.score := rfl
@[simp] theorem Region.modCycle_missed (g : Region) (f : Cycle → Cycle) : (g.modCycle f).missed = g.missed := rfl
@[simp] theorem Region.modCycle_timeouts (g : Region) (f : Cycle → Cycle) : (g.modCycle f).timeouts = g.timeouts := rfl
@[simp] theorem Region.modCycle_refused (g : Region) (f : Cycle → Cycle) : (g.modCycle f).refused = g.refused := rfl
@[simp] theorem Region.modCycle_lastDiscard (g : Region) (f : Cycle → Cycle) :
    (g.modCycle f).lastDiscard = g.lastDiscard := rfl
@[simp] theorem Region.modCycle_conds (g : Region) (f : Cycle → Cycle) : (g.modCycle f).conds = g.conds := rfl
@[simp] theorem Region.modCycle_rot (g : Region) (f : Cycle → Cycle) : (g.modCycle f).rot = g.rot := rfl

@[simp] theorem Region.setCond_conds (g : Region) (c : CondKind) : (g.setCond c).conds = setKind g.conds c := rfl
@[simp] theorem Region.setCond_cycle (g : Region) (c : CondKind) : (g.setCond c).cycle = g.cycle := rfl
@[simp] theorem Region.setCond_defn (g : Region) (c : CondKind) : (g.setCond c).defn = g.defn := rfl
@[simp] theorem Region.setCond_life (g : Region) (c : CondKind) : (g.setCond c).life = g.life := rfl
@[simp] theorem Region.setCond_health (g : Region) (c : CondKind) : (g.setCond c).health = g.health := rfl
@[simp] theorem Region.setCond_score (g : Region) (c : CondKind) : (g.setCond c).score = g.score := rfl
@[simp] theorem Region.setCond_rot (g : Region) (c : CondKind) : (g.setCond c).rot = g.rot := rfl
@[simp] theorem Region.setCond_missed (g : Region) (c : CondKind) : (g.setCond c).missed = g.missed := rfl
@[simp] theorem Region.setCond_timeouts (g : Region) (c : CondKind) : (g.setCond c).timeouts = g.timeouts := rfl
@[simp] theorem Region.setCond_refused (g : Region) (c : CondKind) : (g.setCond c).refused = g.refused := rfl
@[simp] theorem Region.setCond_lastDiscard (g : Region) (c : CondKind) : (g.setCond c).lastDiscard = g.lastDiscard := rfl

@[simp] theorem Region.withCycle_cycle (g : Region) (c : Cycle) : (g.withCycle c).cycle = some c := rfl
@[simp] theorem Region.withCycle_defn (g : Region) (c : Cycle) : (g.withCycle c).defn = g.defn := rfl

/-- What a new score changes: score and health, and WARNED when HEALTHY becomes WARNED. -/
theorem Region.withScore_eq (g : Region) (n : Nat) (h : g.health ≠ .fenced) :
    g.withScore n =
      { g with
        score := n
        health := if 96 ≤ n then .warned else .healthy
        conds := if g.health = .healthy ∧ 96 ≤ n then g.conds ||| 0x0020 else g.conds } := by
  cases hh : g.health
  · simp only [Region.withScore, hh, Config.warnedScore]
    split <;> simp_all [Region.setCond, setKind, CondKind.mask, CondKind.bit]
  · simp [Region.withScore, hh, Config.warnedScore]
  · exact absurd hh h

theorem Region.withScore_fenced (g : Region) (n : Nat) (h : g.health = .fenced) :
    g.withScore n = { g with score := n } := by
  simp [Region.withScore, h]

/-! ### The line map -/

/-- A line past the map changes nothing. -/
theorem Cycle.setLine_of_none (c : Cycle) (i : Nat) (new : LineState) (h : c.lines[i]? = none) :
    c.setLine i new = c := by
  simp [Cycle.setLine, h]

theorem Cycle.setLine_of_some (c : Cycle) (i : Nat) (new old : LineState) (h : c.lines[i]? = some old) :
    c.setLine i new =
      { c with
        lines := c.lines.set i new
        stale := c.stale + new.staleUnit - old.staleUnit
        dirty := c.dirty + new.dirtyUnit - old.dirtyUnit } := by
  simp [Cycle.setLine, h]

@[simp] theorem Cycle.setLine_lines (c : Cycle) (i : Nat) (new : LineState) :
    (c.setLine i new).lines = c.lines.set i new := by
  cases h : c.lines[i]? with
  | none => rw [c.setLine_of_none i new h, List.set_eq_of_length_le (by simpa using h)]
  | some old => rw [c.setLine_of_some i new old h]

/-- Everything but the map and its two counts is kept. -/
theorem Cycle.setLine_keeps (c : Cycle) (i : Nat) (new : LineState) :
    (c.setLine i new).pub = c.pub ∧ (c.setLine i new).sealPending = c.sealPending ∧ (c.setLine i new).gen = c.gen ∧
    (c.setLine i new).front = c.front ∧ (c.setLine i new).readersA = c.readersA ∧
    (c.setLine i new).readersB = c.readersB ∧ (c.setLine i new).writers = c.writers := by
  cases h : c.lines[i]? with
  | none => simp [c.setLine_of_none i new h]
  | some old => simp [c.setLine_of_some i new old h]

theorem Cycle.line_of_some (c : Cycle) (i : Nat) (l : LineState) (h : c.lines[i]? = some l) : c.line i = l := by
  simp [Cycle.line, List.getD, h]

end Sys2Proof.Machine
end

