-- ==== Sys2Proof/Laws/Link.lean ====
section
/-! SUPPORT. How the link answers: what the common forms of a command come to once the slot and its record are known. -/

namespace Sys2Proof.Machine

variable (s : State)

/-- A slot byte in range reaches its slot. -/
theorem State.slotCommand_of_slot (n : Nat) (b : Byte) (k : SlotNo) (f : SlotNo → State) (h : s.linkUp)
    (hk : b.toNat = k.val) : s.slotCommand n b f = f k := by
  have hb : b.toNat < 16 := by omega
  simp only [State.slotCommand, h.1, h.2, hb]
  simp [hk]

/-- A slot byte past 0Fh is answered BADARG. -/
theorem State.slotCommand_of_badarg (n : Nat) (b : Byte) (f : SlotNo → State) (h : s.linkUp) (hb : 16 ≤ b.toNat) :
    s.slotCommand n b f = s.answer n .badarg [] := by
  have hb : ¬ b.toNat < 16 := by omega
  simp [State.slotCommand, h.1, h.2, hb]

/-- A FREE slot is answered BADSTATE. -/
theorem State.recordCommand_of_free (n : Nat) (b : Byte) (k : SlotNo) (ok : Region → Bool)
    (f : SlotNo → Region → State) (h : s.linkUp) (hk : b.toNat = k.val) (hg : s.region? k = none) :
    s.recordCommand n b ok f = s.answer n .badstate [] := by
  simp [State.recordCommand, s.slotCommand_of_slot n b k _ h hk, hg]

/-- A slot in another state is answered BADSTATE; in the right one it is acted on. -/
theorem State.recordCommand_of_some (n : Nat) (b : Byte) (k : SlotNo) (ok : Region → Bool)
    (f : SlotNo → Region → State) (g : Region) (h : s.linkUp) (hk : b.toNat = k.val) (hg : s.region? k = some g) :
    s.recordCommand n b ok f = if ok g then f k g else s.answer n .badstate [] := by
  simp [State.recordCommand, s.slotCommand_of_slot n b k _ h hk, hg]

/-- A device command is taken while the link is up. -/
theorem State.deviceCommand_of_up (n : Nat) (t : State) (h : s.linkUp) : s.deviceCommand n t = t := by
  simp [State.deviceCommand, h.1, h.2]

/-- The check of a mask against a set of kinds. -/
theorem namesOnly_iff (mask set : Kinds) : namesOnly mask set = true ↔ mask &&& set = mask := by
  simp only [namesOnly, beq_iff_eq]
  constructor
  · intro h
    apply BitVec.eq_of_getLsbD_eq
    intro i hi
    have := congrArg (fun v => v.getLsbD i) h
    simp [hi] at this ⊢
    intro hm
    simpa [hm] using this
  · intro h
    apply BitVec.eq_of_getLsbD_eq
    intro i hi
    have := congrArg (fun v => v.getLsbD i) h
    simp [hi] at this ⊢
    exact this

end Sys2Proof.Machine
end

