-- ==== Sys2Proof/Laws/Operands.lean ====
section
/-! SUPPORT. The operand forms in plain arithmetic: when a request crosses a line, lies in a window or a guarded bank, overlaps a
record, passes a filter; what DEFINE and ACTIVATE check. -/

namespace Sys2Proof.Machine

/-! ### Requests -/

theorem Request_crossesLine_eq_false_iff (req : Request) : req.crossesLine = false ↔ withinLine req := by
  rw [← Bool.not_eq_true]
  exact ⟨fun h => Classical.byContradiction fun h' => h (decide_eq_true h'),
    fun h h' => (of_decide_eq_true h' : _ ≠ _) h⟩

theorem inExtent_iff (byte : Nat) (x : Nat × Nat) : inExtent byte x = true ↔ x.1 ≤ byte ∧ byte < x.2 := by
  simp [inExtent]

theorem extentsOverlap_iff (x y : Nat × Nat) : extentsOverlap x y = true ↔ x.1 < y.2 ∧ y.1 < x.2 := by
  simp [extentsOverlap]

theorem extentsOverlap_eq_false_iff (x y : Nat × Nat) : extentsOverlap x y = false ↔ x.2 ≤ y.1 ∨ y.2 ≤ x.1 := by
  rw [← Bool.not_eq_true, extentsOverlap_iff]; omega

theorem Definition.inWindow_iff (d : Definition) (req : Request) : d.inWindow req.addr = true ↔ inWindowOf req d :=
  inExtent_iff _ _

theorem State.accepts_iff (s : State) (port : Port) : s.accepts port = true ↔ s.canAccept port := by
  simp only [State.accepts, State.canAccept, State.heldTx]
  cases port <;> simp [and_assoc]

theorem Definition.filterPasses_iff (d : Definition) (tag : BitVec 6) : d.filterPasses tag = true ↔ d.passesTag tag := by
  simp only [Definition.filterPasses, Definition.passesTag, beq_iff_eq]
  constructor
  · intro h b hb hc
    have := congrArg (fun v => v.getLsbD b) h
    simpa [hc] using this
  · intro h
    apply BitVec.eq_of_getLsbD_eq
    intro i hi
    cases hc : d.care.getLsbD i
    · simp [hc]
    · simpa [hc] using h i hi hc

theorem Request_fullLine_iff (req : Request) : req.fullLine = true ↔ isFullLine req := by
  simp only [Request.fullLine, isFullLine, Bool.and_eq_true, beq_iff_eq, List.all_eq_true, and_assoc,
    List.eq_replicate_iff]
  exact Iff.rfl

theorem QRecord.fullLine_iff (r : QRecord) : r.fullLine = true ↔ recordIsFull r := by
  simp only [QRecord.fullLine, recordIsFull, Bool.and_eq_true, beq_iff_eq, List.all_eq_true, and_assoc,
    List.eq_replicate_iff]
  exact Iff.rfl

/-! ### Which region a request meets -/

theorem List.findSome?_finRange {n : Nat} {β : Type} (f : Fin n → Option β) (k : Fin n) (b : β) (hk : f k = some b)
    (hlt : ∀ j < k, f j = none) : (List.finRange n).findSome? f = some b := by
  rw [List.findSome?_eq_some_iff]
  refine ⟨(List.finRange n).take k, k, (List.finRange n).drop (k + 1), ?_, hk, ?_⟩
  · conv_lhs => rw [← List.take_append_drop k.val (List.finRange n)]
    rw [List.drop_eq_getElem_cons (by simp)]
    simp
  · intro a ha
    apply hlt
    rw [List.mem_take_iff_getElem] at ha
    obtain ⟨i, hi, rfl⟩ := ha
    simp only [List.length_finRange, lt_inf_iff] at hi
    rw [Fin.lt_def]
    simp [hi.1]

theorem State.matching_of_unmatched (s : State) (req : Request) (h : s.unmatched req) : s.matching req.addr = none := by
  simp only [State.matching, List.findSome?_eq_none_iff]
  intro k _
  cases hg : s.region? k with
  | none => rfl
  | some g =>
    have := h k g (by simp [hg])
    rw [← Definition.inWindow_iff] at this
    cases hl : g.life <;> simp_all

theorem State.matching_of_matches (s : State) (req : Request) (k : SlotNo) (g : Region) (h : s.matches req k g) :
    s.matching req.addr = some (k, g) := by
  obtain ⟨h1, h2, h3, h4⟩ := h
  apply List.findSome?_finRange _ k
  · simp [h1, h2, (Definition.inWindow_iff _ _).2 h3]
  · intro j hj
    cases hg : s.region? j with
    | none => rfl
    | some g' =>
      have := h4 j hj g' (by simp [hg])
      rw [← Definition.inWindow_iff] at this
      cases hl : g'.life <;> simp_all

theorem State.guarded_iff (s : State) (req : Request) : s.guarded req.addr = true ↔ s.inGuardedBank req := by
  simp only [State.guarded, State.inGuardedBank, List.any_eq_true, List.mem_finRange, true_and]
  apply exists_congr
  intro j
  cases hg : s.region? j with
  | none => simp
  | some g =>
    simp only [Region.live, Definition.inBanks, Bool.and_eq_true, bne_iff_ne, List.any_eq_true, inExtent_iff,
      Option.mem_def, Option.some.injEq]
    exact ⟨fun h => ⟨g, rfl, h⟩, fun ⟨_, e, h⟩ => e ▸ h⟩

/-! ### Reads -/

theorem Definition.overlapsRecord_iff (d : Definition) (req : Request) (r : QRecord) :
    d.overlapsRecord req r = true ↔ sharesByte d req r := by
  simp only [Definition.overlapsRecord, sharesByte, List.any_eq_true, Bool.and_eq_true, List.mem_range,
    Definition.readCovers, QRecord.coversByte, beq_iff_eq]
  constructor
  · rintro ⟨b, hb, ⟨⟨h1, h2⟩, h3⟩, ⟨h4, h5⟩, h6⟩
    exact ⟨h1, b, hb, ⟨of_decide_eq_true h2, of_decide_eq_true h3⟩, ⟨of_decide_eq_true h4, of_decide_eq_true h5⟩, h6⟩
  · rintro ⟨h1, b, hb, ⟨h2, h3⟩, ⟨h4, h5⟩, h6⟩
    exact ⟨b, hb, ⟨⟨h1, decide_eq_true h2⟩, decide_eq_true h3⟩, ⟨decide_eq_true h4, decide_eq_true h5⟩, h6⟩

theorem State.overlapsQueue_iff (s : State) (k : SlotNo) (d : Definition) (req : Request) :
    s.overlapsQueue k d req = true ↔ s.overlapped k d req := by
  simp [State.overlapsQueue, State.overlapped, Definition.overlapsRecord_iff]

theorem State.readBars_iff (s : State) (r : QRecord) (d : Definition) (c : Cycle) :
    s.readBars r d c = true ↔ s.readInTheWay r d c := by
  simp [State.readBars, State.readInTheWay, Definition.overlapsRecord_iff, Cycle.draft, and_assoc]

theorem Cycle.readBank_eq (c : Cycle) (line : Nat) : c.readBank line = readLands c line := by
  simp only [Cycle.readBank, readLands, Cycle.draft]
  cases c.pub <;> cases c.line line <;> simp

theorem Region.scanAddr_eq (g : Region) (bank : Bank) (req : Request) :
    g.scanAddr bank req.addr = scanTarget g (g.defn.bankBase bank) req := by
  have h : ∀ i, g.physLine i = scanLine g i := by
    intro i
    simp only [Region.physLine, scanLine]
    cases g.defn.rotation <;> cases g.rot <;> simp [Rotation.physLine]
  exact congrArg (fun l => g.defn.bankBase bank + 64 * l + (req.addr - g.defn.window) % 64) (h _)

/-! ### Posted writes and lines that become DIRTY -/

theorem Cycle.target_eq (c : Cycle) : c.target = targetNow c := by
  simp only [Cycle.target, targetNow]
  cases c.pub <;> simp

theorem recordOf_eq (k : SlotNo) (g : Region) (c : Cycle) (req : Request) :
    recordOf k g.defn c req = postedRecord k g c req := by
  simp [recordOf, postedRecord, Cycle.target_eq, Definition.lineOf, Definition.wordInLine, Definition.byteInLine]

theorem Cycle.setLine_dirty (c : Cycle) (i : Nat) (h : i < c.lines.length) : c.setLine i .dirty = c.dirtied i := by
  obtain ⟨l, hl⟩ : ∃ l, c.lines[i]? = some l := ⟨_, List.getElem?_eq_getElem h⟩
  rw [c.setLine_of_some i _ l hl]
  simp only [Cycle.dirtied, c.line_of_some i l hl]
  cases l <;> simp [LineState.staleUnit, LineState.dirtyUnit]

/-! ### The checks of DEFINE and ACTIVATE -/

theorem defineOk_iff (p : DefineParams) : defineOk p = true ↔ ValidDefinition p := by
  have key : ∀ (b0 b3 : Bool) (d : Definition) (bankB : Nat) (grp : Fin 4) (r : Rotation),
      d.double = (if b0 then some { bankB := bankB, group := grp } else none) →
      d.rotation = (if b3 then some r else none) →
      ((d.placedOk && d.rotationOk && d.banksApart) = true ↔
        (1 ≤ d.size ∧ d.size ≤ 4096) ∧ (d.window % 64 = 0 ∧ d.window + 64 * d.size ≤ 0x10000000) ∧
        (d.bankA % 64 = 0 ∧ d.bankA + 64 * d.size ≤ 0x10000000) ∧
        (b0 = true → bankB % 64 = 0 ∧ bankB + 64 * d.size ≤ 0x10000000 ∧
          (d.bankA + 64 * d.size ≤ bankB ∨ bankB + 64 * d.size ≤ d.bankA)) ∧
        (b3 = true → 1 ≤ r.body ∧ r.head + r.body + r.tail = d.size ∧ r.autoStep < r.body)) := by
    intro b0 b3 d bankB grp r h0 h3
    cases b0 <;> cases b3 <;>
      simp [Definition.placedOk, Definition.rotationOk, Definition.banksApart, Definition.bases, Definition.banks,
        extentsOverlap_eq_false_iff, Definition.extent, Config.lineBytes, Config.maxLines, Config.addressEnd, h0, h3] <;> omega
  have := key (p.flags.getLsbD 0) (p.flags.getLsbD 3) (definitionOf p) p.bankB.toNat
    (p.sourceGroup.extractLsb' 0 2).toFin
    { head := p.head.toNat, body := p.body.toNat, tail := p.tail.toNat, autoStep := p.autoStep.toNat } rfl rfl
  rw [defineOk, Bool.and_assoc, Bool.and_assoc, Bool.and_eq_true, ← Bool.and_assoc, this]
  simp only [presenceOk, Bool.and_eq_true, beq_iff_eq]
  rfl

theorem State.clashes_iff (s : State) (k : SlotNo) (d : Definition) : s.clashes k d = true ↔ s.clashing k d := by
  simp only [State.clashes, State.clashing, List.any_eq_true, List.mem_finRange, true_and, Bool.and_eq_true,
    bne_iff_ne]
  apply exists_congr
  intro j
  apply and_congr Iff.rfl
  cases hg : s.region? j with
  | none => simp
  | some g =>
    simp only [Region.live, Definition.overlaps, Definition.extents, List.any_map, List.any_eq_true, Function.comp,
      extentsOverlap_iff, Bool.and_eq_true, bne_iff_ne, Option.mem_def, Option.some.injEq]
    exact ⟨fun h => ⟨g, rfl, h⟩, fun ⟨_, e, h⟩ => e ▸ h⟩

theorem State.portIdle_iff (s : State) : s.portIdle = true ↔ s.mPortIdle := by
  simp only [State.portIdle, State.mPortIdle, State.presents, State.tracker]
  simp [List.isEmpty_iff, and_assoc]

end Sys2Proof.Machine
end

