-- ==== Sys2Proof/Laws/Acts.lean ====
section
/-! SUPPORT. What each act of the blocks can do, said once: an act leaves the state or makes one named update of it. The proofs about
a happening cite these and `State.settle_induction`, and unfold no act. -/

namespace Sys2Proof.Machine

variable (s : State)

/-! ### The rest of a happening, act by act -/

/-- What every act of the rest of a happening keeps, the rest of a happening keeps. -/
theorem State.settle_induction {P : State → Prop} (controllers : ∀ s, P s → P s.controllers)
    (holdRelease : ∀ s, P s → P s.holdRelease) (replaySelect : ∀ s, P s → P s.replaySelect)
    (replayIssue : ∀ s, P s → P s.replayIssue) (copyTake : ∀ s, P s → P s.copyTake)
    (enginePresent : ∀ s, P s → P s.enginePresent) (grant : ∀ s, P s → P s.grant) (returns : ∀ s, P s → P s.returns)
    (softResetEnd : ∀ s, P s → P s.softResetEnd) (commitReady : ∀ s, P s → P s.commitReady) (h : P s) : P s.settle := by
  have acts : ∀ s, P s → P s.engineActs := fun s h => by
    refine enginePresent _ (copyTake _ (copyTake _ (copyTake _ (copyTake _ ?_))))
    simp only [State.replayAdvance]
    split
    · exact replaySelect _ h
    · exact replayIssue _ h
    · exact h
  exact commitReady _ (softResetEnd _ (returns _ (acts _ (grant _ (acts _ (holdRelease _ (controllers _ h)))))))

/-! ### The held transaction -/

theorem Tx.heldFor_eq_some_iff (t : Tx) (reason : HoldReason) :
    t.heldFor = some reason ↔ ∃ age limit, t.state = .held reason age limit := by
  cases h : t.state <;> simp [Tx.heldFor, h]

@[simp] theorem Tx.heldFor_eq_none_iff (t : Tx) : t.heldFor = none ↔ t.isHeld = false := by
  cases h : t.state <;> simp [Tx.heldFor, Tx.isHeld, h]

theorem State.heldTx_eq_some {t : Tx} (h : s.heldTx = some t) : t ∈ s.pTracker ∧ t.isHeld = true :=
  ⟨List.mem_of_find?_eq_some h, List.find?_some h⟩

theorem State.heldTx_eq_none_iff : s.heldTx = none ↔ ∀ t ∈ s.pTracker, t.isHeld = false := by
  simp [State.heldTx]

/-- With only the youngest held, the held transaction is it, and an update of it is one of the youngest. -/
theorem State.holdsYoungest.heldTx {s : State} {older : List Tx} {t : Tx} {reason : HoldReason} {age limit : Nat}
    (h : s.holdsYoungest older t reason age limit) : s.heldTx = some t := by
  obtain ⟨h1, h2, h3⟩ := h
  have ht : t.isHeld = true := by simp [Tx.isHeld, h3]
  simp only [State.heldTx, h1, List.find?_append]
  rw [List.find?_eq_none.2 (by simpa using h2)]
  simp [ht]

theorem State.holdsYoungest.modHeld {s : State} {older : List Tx} {t : Tx} {reason : HoldReason} {age limit : Nat}
    (h : s.holdsYoungest older t reason age limit) (f : Tx → Tx) :
    (s.modHeld f).pTracker = older ++ [f t] := by
  obtain ⟨h1, h2, h3⟩ := h
  have ht : t.isHeld = true := by simp [Tx.isHeld, h3]
  have : older.map (fun t => if t.isHeld = true then f t else t) = older := by
    conv_rhs => rw [← List.map_id older]
    exact List.map_congr_left fun u hu => by simp [h2 u hu]
  simp [State.modHeld, h1, this, ht]

/-- Everything the release of a hold can do. -/
theorem State.holdRelease_cases :
    s.holdRelease = s ∨
    ∃ t k g c reason age limit, s.heldTx = some t ∧ t.region = some k ∧ t.state = .held reason age limit ∧
      s.region? k = some g ∧ g.cycle = some c ∧
      (((reason = .demand ∨ reason = .copying) ∧
          (c.line (g.defn.lineOf t.req.addr) = .sync ∨ c.line (g.defn.lineOf t.req.addr) = .dirty) ∧
          s.holdRelease = (s.modCycle k (·.setLine (g.defn.lineOf t.req.addr) .dirty)).modHeld fun t =>
            { t with state := .accepted, bank := some c.draft, phys := some (g.defn.bankAddr c.draft t.req.addr) }) ∨
        (reason = .queue ∧ s.queue.length < 32 ∧
          s.holdRelease = { s with queue := s.queue ++ [recordOf k g.defn c t.req] }.modHeld fun t =>
            { t with state := .done .okay [] }) ∨
        (reason = .overlap ∧ s.overlapsQueue k g.defn t.req = false ∧ ∃ bank, bank = c.readBank (g.defn.lineOf t.req.addr) ∧
          s.holdRelease = (s.modCycle k (·.enter (.reader bank))).modHeld fun t =>
            { t with
              state := .accepted, bank := some bank, phys := some (g.defn.bankAddr bank t.req.addr)
              count := some (.reader bank) })) := by
  simp only [State.holdRelease]
  split
  · exact .inl rfl
  · rename_i t ht
    split
    · rename_i k reason age limit hk hst
      split
      · exact .inl rfl
      · rename_i g hg
        split
        · exact .inl rfl
        · rename_i c hc
          cases reason with
          | demand =>
            simp only [State.releaseWrite]
            split
            · exact .inr ⟨t, k, g, c, _, _, _, ht, hk, hst, hg, hc, .inl ⟨.inl rfl, .inl ‹_›, rfl⟩⟩
            · exact .inr ⟨t, k, g, c, _, _, _, ht, hk, hst, hg, hc, .inl ⟨.inl rfl, .inr ‹_›, rfl⟩⟩
            · exact .inl rfl
            · exact .inl rfl
          | copying =>
            simp only [State.releaseWrite]
            split
            · exact .inr ⟨t, k, g, c, _, _, _, ht, hk, hst, hg, hc, .inl ⟨.inr rfl, .inl ‹_›, rfl⟩⟩
            · exact .inr ⟨t, k, g, c, _, _, _, ht, hk, hst, hg, hc, .inl ⟨.inr rfl, .inr ‹_›, rfl⟩⟩
            · exact .inl rfl
            · exact .inl rfl
          | queue =>
            simp only [State.releasePost]
            split
            · exact .inr ⟨t, k, g, c, _, _, _, ht, hk, hst, hg, hc, .inr (.inl ⟨rfl, ‹_›, rfl⟩)⟩
            · exact .inl rfl
          | overlap =>
            simp only [State.releaseRead]
            split
            · exact .inl rfl
            · rename_i ho
              exact .inr ⟨t, k, g, c, _, _, _, ht, hk, hst, hg, hc, .inr (.inr ⟨rfl, by simpa using ho, _, rfl, rfl⟩)⟩
    · exact .inl rfl

/-! ### The copy engine -/

theorem State.isWork_iff (k : SlotNo) (line : Nat) : s.isWork k line = true ↔ s.catchUp k line := by
  simp only [State.isWork, State.catchUp]
  cases hg : s.region? k with
  | none => simp
  | some g =>
    cases hc : g.cycle with
    | none => simp [hc]
    | some c =>
      simp only [hc, State.barred, Bool.and_eq_true, beq_iff_eq, Bool.not_eq_true', List.any_eq_false, Option.mem_def,
        Option.some.injEq, exists_eq_left', not_and, and_assoc]
      have hp : c.pub.working = true ↔ c.pub = .opened ∨ c.pub = .sealWait := by cases c.pub <;> simp [PubState.working]
      rw [hp]

/-- A line of work is a STALE line of an ACTIVE region in OPEN or SEAL_WAIT. -/
theorem State.region_of_isWork {k : SlotNo} {line : Nat} (h : s.isWork k line = true) :
    ∃ g c, s.region? k = some g ∧ g.life = .active ∧ g.cycle = some c ∧ (c.pub = .opened ∨ c.pub = .sealWait) ∧
      c.lines[line]? = some .stale := by
  obtain ⟨g, hg, hl, c, hc, hp, hs, -⟩ := (s.isWork_iff k line).1 h
  exact ⟨g, c, hg, hl, hc, hp, hs⟩

theorem State.nowCopying_eq (k : SlotNo) (line : Nat) :
    s.nowCopying k line = { s with replay := if s.replayDemands k line then .waiting .copying else s.replay } := by
  simp only [State.nowCopying]
  split <;> rfl

/-- A slot that takes a line of work, in plain updates. -/
theorem State.takeLine_of_work (j : Fin 4) {k : SlotNo} {line : Nat} {g : Region} {c : Cycle} (hg : s.region? k = some g)
    (hc : g.cycle = some c) (hl : c.lines[line]? = some .stale) :
    s.takeLine j k line =
      { s with
        slots := s.slots.set j (.copying
          { region := k, line := line, source := c.front, target := c.front.other, phase := .read, attempt := 1
            demanded := s.demands k line, ending := false, buffer := [] })
        table := s.table.set k (some (g.withCycle { c with lines := c.lines.set line .copying }))
        demand := s.demand.filter fun e => !(e.region == k && e.line == line)
        replay := if s.replayDemands k line then .waiting .copying else s.replay
        readyNow := insertByRank (.slot j) s.readyNow } := by
  have hcy : s.cycle? k = some c := by simp [State.cycle?, hg, hc]
  have hset : c.setLine line .copying = { c with lines := c.lines.set line .copying } := by
    simp [c.setLine_of_some line _ _ hl, LineState.staleUnit, LineState.dirtyUnit]
  simp only [State.takeLine, hcy, State.nowCopying_eq]
  rw [State.modCycle_of_some _ k _ g c (by exact hg) hc, hset]
  rfl

/-- Everything a take can do: nothing, or a FREE slot takes a line of work. -/
theorem State.copyTake_cases :
    s.copyTake = s ∨ ∃ j k line ptr, s.freeSlot = some j ∧ s.slots[j] = .free ∧ s.isWork k line = true ∧
      s.copyTake = { s with rrPtr := ptr }.takeLine j k line := by
  simp only [State.copyTake]
  split
  · exact .inl rfl
  · rename_i j hj
    have hfree : s.slots[j] = .free := by simpa using List.find?_some hj
    split
    · rename_i e he
      exact .inr ⟨j, e.region, e.line, s.rrPtr, hj, hfree, List.find?_some (p := fun (d : DemandEntry) => s.isWork d.region d.line) he, rfl⟩
    · split
      · rename_i k line hk
        refine .inr ⟨j, k, line, k, hj, hfree, ?_, rfl⟩
        simp only [State.roundRobin, List.findSome?_eq_some_iff] at hk
        obtain ⟨-, k', -, -, hk', -⟩ := hk
        simp only [State.lowestWork, Option.map_eq_some_iff] at hk'
        obtain ⟨i, hi, heq⟩ := hk'
        split at hi
        · cases hi
        · obtain ⟨rfl, rfl⟩ := Prod.mk.inj heq
          exact List.find?_some hi
      · exact .inl rfl

/-! ### The replay unit -/

/-- Everything the unit can do with its selected record: nothing without a region, else wait or issue (R59, R103, R104). -/
theorem State.replayDecide_cases (r : QRecord) :
    (s.cycle? r.region = none ∧ s.replayDecide r = s) ∨
    ∃ g c, s.region? r.region = some g ∧ g.cycle = some c ∧
      ((c.line r.line = .copying ∧ s.replayDecide r = { s with replay := .waiting .copying }) ∨
       (c.line r.line = .stale ∧ r.fullLine = false ∧
          s.replayDecide r = { s.joinDemand .replay r.region r.line with replay := .waiting .demand }) ∨
       (c.line r.line ≠ .copying ∧ (c.line r.line = .stale → r.fullLine = true) ∧
          ((s.readBars r g.defn c = true ∧ s.replayDecide r = { s with replay := .waiting .read }) ∨
           (s.readBars r g.defn c = false ∧ s.replayDecide r = s.issueReplay r g.defn c)))) := by
  simp only [State.replayDecide, State.cycle?]
  cases hg : s.region? r.region with
  | none => exact .inl ⟨rfl, rfl⟩
  | some g =>
    cases hc : g.cycle with
    | none => exact .inl ⟨by simp [hc], by simp [hc]⟩
    | some c =>
      refine .inr ⟨g, c, rfl, hc, ?_⟩
      simp only [hc]
      split
      · exact .inl ⟨‹_›, rfl⟩
      · rename_i h1
        split
        · exact .inr (.inl ⟨(‹_ ∧ _›).1, (‹_ ∧ _›).2, rfl⟩)
        · rename_i h2
          refine .inr (.inr ⟨h1, fun h => by simpa [h] using h2, ?_⟩)
          split
          · exact .inl ⟨‹_›, rfl⟩
          · rename_i h3
            exact .inr ⟨by simpa using h3, rfl⟩

/-- A record is selected only when it is eligible, and only its mark is new in the queue. -/
theorem State.replaySelect_cases :
    s.replaySelect = s ∨ ∃ r ∈ s.queue, s.eligible r = true ∧ s.replay = .idle ∧
      s.replaySelect = { s with queue := markFirst s.eligible s.queue }.replayDecide r := by
  simp only [State.replaySelect]
  split
  · split
    · rename_i r hr
      exact .inr ⟨r, List.mem_of_find?_eq_some hr, List.find?_some hr, ‹_›, rfl⟩
    · exact .inl rfl
  all_goals exact .inl rfl

theorem State.replayIssue_cases :
    s.replayIssue = s ∨ ∃ r ∈ s.queue, r.selected = true ∧ (∃ w, s.replay = .waiting w) ∧
      s.replayIssue = s.replayDecide r := by
  simp only [State.replayIssue]
  split
  · split
    · rename_i r hr
      exact .inr ⟨r, List.mem_of_find?_eq_some hr, List.find?_some hr, ⟨_, ‹_›⟩, rfl⟩
    · exact .inl rfl
  all_goals exact .inl rfl

/-- A record is eligible in the words of R102. -/
theorem State.eligible_iff (r : QRecord) : s.eligible r = true ↔ s.replayable r := by
  simp only [State.eligible, State.replayable]
  cases hg : s.region? r.region with
  | none => simp
  | some g =>
    cases hc : g.cycle with
    | none => simp [hc]
    | some c =>
      have hp : c.pub.working = true ↔ c.pub = .opened ∨ c.pub = .sealWait := by cases c.pub <;> simp [PubState.working]
      simp [hc, hp, Cycle.draftGen, and_assoc]

theorem markFirst_of_split (p : QRecord → Bool) (older younger : List QRecord) (r : QRecord)
    (ho : ∀ q ∈ older, p q = false) (hr : p r = true) :
    markFirst p (older ++ r :: younger) = older ++ { r with selected := true } :: younger := by
  induction older with
  | nil => simp [markFirst, hr]
  | cons x xs ih =>
    have := ih fun q hq => ho q (List.mem_cons_of_mem _ hq)
    simp [markFirst, ho x List.mem_cons_self, this]

/-- Marking changes only the mark: what a filter that does not look at it keeps, and the length, stay. -/
theorem markFirst_length (p : QRecord → Bool) (l : List QRecord) : (markFirst p l).length = l.length := by
  induction l with
  | nil => rfl
  | cons x xs ih => simp only [markFirst]; split <;> simp [ih]

theorem markFirst_unmarked (p : QRecord → Bool) (l : List QRecord) :
    (markFirst p l).map (fun r => { r with selected := false }) = l.map fun r => { r with selected := false } := by
  induction l with
  | nil => rfl
  | cons x xs ih => simp only [markFirst]; split <;> simp [ih]

theorem mem_markFirst {p : QRecord → Bool} {l : List QRecord} {r : QRecord} (h : r ∈ markFirst p l) :
    ∃ q ∈ l, r = q ∨ r = { q with selected := true } := by
  induction l with
  | nil => simp [markFirst] at h
  | cons x xs ih =>
    simp only [markFirst] at h
    split at h
    · rcases List.mem_cons.1 h with rfl | h
      · exact ⟨x, List.mem_cons_self, .inr rfl⟩
      · exact ⟨r, List.mem_cons_of_mem _ h, .inl rfl⟩
    · rcases List.mem_cons.1 h with rfl | h
      · exact ⟨_, List.mem_cons_self, .inl rfl⟩
      · obtain ⟨q, hq, e⟩ := ih h
        exact ⟨q, List.mem_cons_of_mem _ hq, e⟩

/-! ### The arbiter -/

/-- Everything a grant can do. -/
theorem State.grant_cases :
    s.grant = s ∨
    (∃ port t, s.presents port = some t ∧
      s.grantee = some (match port with | .p => .p | .s => .s) ∧
      s.grant = (s.countPassed (match port with | .p => .p | .s => .s)).grantTx port t) ∨
    (∃ e, s.presented = some e ∧ s.grantee = some .engine ∧ s.grant = (s.countPassed .engine).grantEngine e) ∨
    ∃ x, s.grantee = some x ∧ s.grant = s.countPassed x := by
  simp only [State.grant]
  split
  · rename_i x hx
    cases x with
    | s =>
      cases h : s.presents .s with
      | none => exact .inr (.inr (.inr ⟨.s, hx, by
          have : (s.countPassed .s).presents .s = none := h
          simp [State.grantTo, this]⟩))
      | some t => exact .inr (.inl ⟨.s, t, h, hx, by
          have : (s.countPassed .s).presents .s = some t := h
          simp [State.grantTo, this]⟩)
    | p =>
      cases h : s.presents .p with
      | none => exact .inr (.inr (.inr ⟨.p, hx, by
          have : (s.countPassed .p).presents .p = none := h
          simp [State.grantTo, this]⟩))
      | some t => exact .inr (.inl ⟨.p, t, h, hx, by
          have : (s.countPassed .p).presents .p = some t := h
          simp [State.grantTo, this]⟩)
    | engine =>
      cases h : (s.countPassed .engine).presented with
      | none => exact .inr (.inr (.inr ⟨.engine, hx, by simp only [State.grantTo, h]⟩))
      | some e => exact .inr (.inr (.inl ⟨e, h, hx, by simp only [State.grantTo, h]⟩))
  · exact .inl rfl

/-- Whom the arbiter grants presents a request. -/
theorem State.grantee_presents {x : Position} (h : s.grantee = some x) :
    s.outstanding.length < 8 ∧ s.mRequest = none ∧
    (x = .p → (s.presents .p).isSome) ∧ (x = .s → (s.presents .s).isSome) ∧ (x = .engine → s.presented.isSome) := by
  simp only [State.grantee] at h
  by_cases hc : s.canGrant = true
  · have hc' : s.outstanding.length < 8 ∧ s.mRequest = none := by simpa [State.canGrant] using hc
    refine ⟨hc'.1, hc'.2, ?_⟩
    rw [if_pos hc] at h
    simp only [chooseGrant] at h
    split at h
    · cases h; simp_all
    · split at h
      · cases h; simp_all
      · split at h
        · cases h; simp_all
        · split at h
          · cases h; simp_all
          · split at h
            · cases h; simp_all
            · cases h
  · rw [if_neg hc] at h
    cases h

/-! ### Errors -/

/-- The report itself, in the words of R143 to R145. -/
theorem Region.reported_eq (g : Region) : g.reported = g.afterReport := by
  by_cases hf : g.health = .fenced
  · simp [Region.reported, Region.afterReport, hf, Region.setCond, setKind, CondKind.mask, CondKind.bit]
  · simp only [Region.reported, Region.afterReport, if_neg hf]
    rw [show chargedScore g.score = min 256 (g.score + 8) from rfl, g.withScore_eq _ hf]
    simp only [Region.setCond, setKind, CondKind.mask, CondKind.bit]
    congr 1
    by_cases hw : g.health = .healthy ∧ 96 ≤ min 256 (g.score + 8)
    · rw [if_pos hw, if_pos hw]
      simp only [BitVec.or_assoc]
      congr 1
    · rw [if_neg hw, if_neg hw]
      simp

/-- When a report fences, in the words of R146. -/
theorem Region.reportFences_iff (g : Region) (third : Bool) : g.reportFences third = true ↔
    g.health ≠ .fenced ∧ g.cycle.isSome = true ∧ g.life ≠ .defined ∧ (third = true ∨ 256 ≤ g.score + 8) := by
  have hch : chargedScore g.score = Config.fencedScore ↔ 256 ≤ g.score + 8 := by
    simp only [chargedScore, Config.fencedScore, Config.errorScore]
    omega
  simp [Region.reportFences, Region.fenceable, Region.live, hch, and_assoc]

/-- Everything a memory error report can do (R143 to R146). -/
theorem State.reportError_cases (k : SlotNo) (third : Bool) :
    (s.region? k = none ∧ s.reportError k third = s) ∨
    ∃ g, s.region? k = some g ∧
      ((s.reportError k third = s.putRegion k (some g.afterReport) ∧
          (g.health = .fenced ∨ ¬ g.fencesAt ∧ (third = false ∨ g.cycle = none ∨ g.life = .defined))) ∨
       (s.reportError k third = (s.putRegion k (some g.afterReport)).fence k ∧ g.health ≠ .fenced ∧ g.cycle.isSome = true ∧ g.life ≠ .defined ∧
          (third = true ∨ 256 ≤ g.score + 8))) := by
  simp only [State.reportError]
  cases hg : s.region? k with
  | none => exact .inl ⟨rfl, rfl⟩
  | some g =>
    refine .inr ⟨g, rfl, ?_⟩
    simp only [s.modRegion_of_some k _ g hg, g.reported_eq]
    split
    · rename_i h
      rw [g.reportFences_iff] at h
      exact .inr ⟨rfl, h⟩
    · rename_i h
      rw [g.reportFences_iff] at h
      refine .inl ⟨rfl, or_iff_not_imp_left.2 fun hf => ⟨fun hx => h ⟨hf, hx.2.1, hx.2.2.1, .inr hx.2.2.2⟩, ?_⟩⟩
      by_contra hn
      simp only [not_or, Bool.not_eq_false, ← ne_eq, ← Option.isSome_iff_ne_none] at hn
      exact h ⟨hf, hn.2.1, hn.2.2, .inl hn.1⟩

/-! ### Regions after the acts that map them -/

theorem State.region?_controllers (k : SlotNo) :
    s.controllers.region? k = (s.region? k).map fun g => (g.drainEnd s.queue k).sealedEntry s.queue k := by
  simp [State.controllers]

theorem State.region?_returns (k : SlotNo) :
    s.returns.region? k = (s.region? k).map fun g => g.returnIf (s.nothingLeft k) := by
  simp [State.returns]

theorem State.region?_sealGroups (groups : Fin 4 → Bool) (k : SlotNo) :
    (s.sealGroups groups).region? k = (s.region? k).map fun g =>
      if g.life == .active && g.defn.inGroups groups then g.modCycle (·.takeSeal s.queue k) else g := by
  simp [State.sealGroups]

theorem State.region?_epoch (source : Source) (k : SlotNo) :
    (s.epoch source).region? k = (s.region? k).map fun g =>
      if g.life == .active && g.defn.source == source then g.epoch else g := by
  simp [State.epoch]

/-- Nothing of a region is left exactly when nothing of it is in flight (R40). -/
theorem State.nothingLeft_iff (k : SlotNo) : s.nothingLeft k = true ↔ s.nothingInFlight k := by
  simp only [State.nothingLeft, State.nothingInFlight, inTracker, Bool.and_eq_true, Bool.not_eq_true', List.any_eq_false,
    beq_iff_eq, List.mem_append]
  have hslots : (∀ x ∈ s.slots.toList, ¬ x.keeps k = true) ↔
      (∀ (j : Fin 4) x, s.slots[j] = .copying x → x.region ≠ k) ∧
      ∀ (j : Fin 4) r ph, s.slots[j] = .finishing r ph → r ≠ k := by
    have hmem : (∀ x ∈ s.slots.toList, ¬ x.keeps k = true) ↔ ∀ j : Fin 4, ¬ (s.slots[j]).keeps k = true := by
      constructor
      · intro h j
        exact h _ (by simp)
      · intro h x hx
        obtain ⟨i, hi, rfl⟩ := List.getElem_of_mem hx
        simpa using h ⟨i, by simpa using hi⟩
    rw [hmem]
    constructor
    · intro h
      exact ⟨fun j x hx => by simpa [CopySlot.keeps, hx] using h j, fun j r ph hx => by simpa [CopySlot.keeps, hx] using h j⟩
    · rintro ⟨h1, h2⟩ j
      cases hx : s.slots[j] with
      | free => simp [CopySlot.keeps]
      | copying x => simpa [CopySlot.keeps] using h1 j x hx
      | finishing r ph => simpa [CopySlot.keeps] using h2 j r ph hx
  rw [hslots]
  have hrep : s.replay.isOf k = false ↔ ∀ r w, s.replay = .issued r w → r ≠ k := by
    cases s.replay <;> simp [Replay.isOf]
  rw [hrep]
  constructor
  · rintro ⟨⟨⟨h1, h2⟩, h3, h4⟩, h5⟩
    exact ⟨fun t ht => ht.elim (h1 t) (h2 t), h3, h4, h5⟩
  · rintro ⟨h1, h3, h4, h5⟩
    exact ⟨⟨⟨fun t ht => h1 t (.inl ht), fun t ht => h1 t (.inr ht)⟩, h3, h4⟩, h5⟩

/-- Ready to seal, in the words of R72. -/
theorem Cycle.readyToSeal_iff (c : Cycle) (k : SlotNo) : c.readyToSeal s.queue k = true ↔ s.readiness k c := by
  simp [Cycle.readyToSeal, State.readiness, hasTarget, Cycle.draftGen, and_assoc]

/-- What a seal makes of the publish cycle items (R72, R73). -/
theorem Cycle.takeSeal_reaches (c : Cycle) (k : SlotNo) : sealReaches s k c (c.takeSeal s.queue k) := by
  have h := c.readyToSeal_iff s k
  simp only [sealReaches, Cycle.takeSeal]
  cases hp : c.pub <;> simp_all

/-! ### Live regions and the requests of the engine -/

theorem sharesLine_comm (base n base' m : Nat) : sharesLine base n base' m ↔ sharesLine base' m base n := and_comm

/-- Two definitions that share no line do so either way round: of two live regions, neither clashes because of the other. -/
theorem State.not_clashing_of_apart {k j : SlotNo} {g g' : Region} (h : ¬ s.clashing k g.defn) (hj : s.region? j = some g')
    (hne : j ≠ k) (hl : g'.life ≠ .defined) :
    ∀ base ∈ g'.defn.bases, ∀ base' ∈ g.defn.bases, ¬ sharesLine base g'.defn.size base' g.defn.size :=
  fun base hb base' hb' hs => h ⟨j, hne, g', hj, hl, base', hb', base, hb, (sharesLine_comm ..).1 hs⟩

/-- A part of the engine that has no request has none ready and none granted. -/
theorem State.requestsOf_eq_zero_iff (e : EngineReq) :
    s.requestsOf e = 0 ↔ e ∉ s.ready ∧ ∀ o ∈ s.outstanding, o.owner ≠ .engine e := by
  simp [State.requestsOf, List.countP_eq_zero]
  exact fun _ => ⟨fun h h' => h e h' rfl, fun h a ha hae => h (hae ▸ ha)⟩

end Sys2Proof.Machine
end

