-- ==== Sys2Proof/Laws/Frame.lean ====
section
/-! SUPPORT. The acts of the blocks keep the frame of the state: the queue of commands, the level of RESETn, the policies, the
reply, the model's counter; and the time base. -/

namespace Sys2Proof.Machine

variable (s : State)

/-- Frame and time base, as one value. -/
def State.outer (s : State) : Frame × Nat := (s.frame, s.timeBase)

theorem State.outer_eq_iff (s t : State) : t.outer = s.outer ↔ t.frame = s.frame ∧ t.timeBase = s.timeBase := by
  simp [State.outer]

/-! ### Named updates -/

@[simp] theorem State.putRegion_outer (k : SlotNo) (g : Option Region) : (s.putRegion k g).outer = s.outer := rfl
@[simp] theorem State.modRegion_outer (k : SlotNo) (f : Region → Region) : (s.modRegion k f).outer = s.outer := rfl
@[simp] theorem State.modCycle_outer (k : SlotNo) (f : Cycle → Cycle) : (s.modCycle k f).outer = s.outer := rfl
@[simp] theorem State.mapRegions_outer (f : SlotNo → Region → Region) : (s.mapRegions f).outer = s.outer := rfl
@[simp] theorem State.modHeld_outer (f : Tx → Tx) : (s.modHeld f).outer = s.outer := rfl
@[simp] theorem State.setTracker_outer (port : Port) (l : List Tx) : (s.setTracker port l).outer = s.outer := by
  cases port <;> rfl
@[simp] theorem State.answerHeldOf_outer (k : SlotNo) (st : Status) : (s.answerHeldOf k st).outer = s.outer := rfl
@[simp] theorem State.dropRecords_outer (k : SlotNo) : (s.dropRecords k).outer = s.outer := rfl
@[simp] theorem State.undemand_outer (k : SlotNo) (line : Nat) : (s.undemand k line).outer = s.outer := rfl
@[simp] theorem State.undemandRegion_outer (k : SlotNo) : (s.undemandRegion k).outer = s.outer := rfl
@[simp] theorem State.joinDemand_outer (who : Requester) (k : SlotNo) (line : Nat) :
    (s.joinDemand who k line).outer = s.outer := by
  simp only [State.joinDemand]; split <;> rfl
@[simp] theorem State.makeReady_outer (e : EngineReq) : (s.makeReady e).outer = s.outer := rfl
@[simp] theorem State.withdraw_outer (p : EngineReq → Bool) : (s.withdraw p).outer = s.outer := rfl
@[simp] theorem State.setSlot_outer (j : Fin 4) (c : CopySlot) : (s.setSlot j c).outer = s.outer := rfl
@[simp] theorem State.giveUpSlots_outer (k : SlotNo) : (s.giveUpSlots k).outer = s.outer := rfl
@[simp] theorem State.setDevCond_outer (c : CondKind) : (s.setDevCond c).outer = s.outer := rfl
@[simp] theorem State.addTx_outer (port : Port) (req : Request) (region : Option SlotNo) (bank : Option Bank)
    (phys : Option Nat) (state : TxState) (count : Option CountEntry) :
    (s.addTx port req region bank phys state count).outer = s.outer := by simp [State.addTx]
@[simp] theorem State.enterCount_outer (k : SlotNo) (e : Option CountEntry) : (s.enterCount k e).outer = s.outer := by
  cases e <;> rfl
@[simp] theorem State.countPassed_outer (x : Position) : (s.countPassed x).outer = s.outer := rfl
@[simp] theorem State.sendOut_outer (o : Owner) (r : MRequest) : (s.sendOut o r).outer = s.outer := rfl

/-! ### Acts -/

@[simp] theorem State.controllers_outer : s.controllers.outer = s.outer := rfl
@[simp] theorem State.returns_outer : s.returns.outer = s.outer := rfl
@[simp] theorem State.commitReady_outer : s.commitReady.outer = s.outer := rfl
@[simp] theorem State.enginePresent_outer : s.enginePresent.outer = s.outer := by
  simp only [State.enginePresent]; split <;> rfl
@[simp] theorem State.softResetEnd_outer : s.softResetEnd.outer = s.outer := by
  simp only [State.softResetEnd]; split <;> rfl
@[simp] theorem State.holdRelease_outer : s.holdRelease.outer = s.outer := by
  rcases s.holdRelease_cases with h | ⟨t, k, g, c, _, _, _, -, -, -, -, -, ⟨-, -, h⟩ | ⟨-, -, h⟩ | ⟨-, -, bank, -, h⟩⟩ <;>
    rw [h] <;> rfl
@[simp] theorem State.takeLine_outer (j : Fin 4) (k : SlotNo) (line : Nat) :
    (s.takeLine j k line).outer = s.outer := by
  simp only [State.takeLine]
  split
  · rfl
  · simp [State.nowCopying_eq]; rfl
@[simp] theorem State.copyTake_outer : s.copyTake.outer = s.outer := by
  rcases s.copyTake_cases with h | ⟨j, k, line, ptr, -, -, -, h⟩ <;> rw [h]
  simp; rfl
@[simp] theorem State.replayDecide_outer (r : QRecord) : (s.replayDecide r).outer = s.outer := by
  rcases s.replayDecide_cases r with ⟨-, h⟩ | ⟨g, c, -, -, ⟨-, h⟩ | ⟨-, -, h⟩ | ⟨-, -, ⟨-, h⟩ | ⟨-, h⟩⟩⟩ <;> rw [h]
  · rfl
  · exact s.joinDemand_outer _ _ _
  · rfl
  · rfl
@[simp] theorem State.replaySelect_outer : s.replaySelect.outer = s.outer := by
  rcases s.replaySelect_cases with h | ⟨r, -, -, -, h⟩ <;> rw [h]
  simp; rfl
@[simp] theorem State.replayIssue_outer : s.replayIssue.outer = s.outer := by
  rcases s.replayIssue_cases with h | ⟨r, -, -, -, h⟩ <;> rw [h]
  simp
@[simp] theorem State.grantTx_outer (port : Port) (t : Tx) : (s.grantTx port t).outer = s.outer := by
  simp [State.grantTx]
@[simp] theorem State.grantEngine_outer (e : EngineReq) : (s.grantEngine e).outer = s.outer := by
  simp only [State.grantEngine]; split <;> simp
@[simp] theorem State.grant_outer : s.grant.outer = s.outer := by
  rcases s.grant_cases with h | ⟨port, t, -, -, h⟩ | ⟨e, -, -, h⟩ | ⟨x, -, h⟩ <;> rw [h] <;> simp

/-- The rest of a happening keeps frame and time base. -/
@[simp] theorem State.settle_outer : s.settle.outer = s.outer :=
  State.settle_induction s (P := fun t => t.outer = s.outer) (fun t h => by simpa using h) (fun t h => by simpa using h)
    (fun t h => by simpa using h) (fun t h => by simpa using h) (fun t h => by simpa using h)
    (fun t h => by simpa using h) (fun t h => by simpa using h) (fun t h => by simpa using h)
    (fun t h => by simpa using h) (fun t h => by simpa using h) rfl

/-- A fence and a memory error report keep frame and time base. -/
@[simp] theorem State.fence_outer (k : SlotNo) : (s.fence k).outer = s.outer := by simp [State.fence]
@[simp] theorem State.reportError_outer (k : SlotNo) (third : Bool) : (s.reportError k third).outer = s.outer := by
  rcases s.reportError_cases k third with ⟨-, h⟩ | ⟨g, -, ⟨h, -⟩ | ⟨h, -⟩⟩ <;> rw [h] <;> simp

/-- Whatever a request becomes, frame and time base are kept. -/
@[simp] theorem State.accept_outer (port : Port) (req : Request) (r : Resolution) :
    (s.accept port req r).outer = s.outer := by
  cases r with
  | holdWrite k reason bank line => simp only [State.accept]; split <;> simp
  | posted k record => simp only [State.accept, State.addTx_outer]; rfl
  | _ => simp [State.accept]

end Sys2Proof.Machine
end

