-- ==== Sys2Proof/Tests/Slice0.lean ====
section
/-! SUPPORT. Tests against the spec's own examples, the smoke test of WellFormed, and for every statement with hypotheses a
concrete state and operands that meet them (test_meets_…), each clause at a boundary of its range. -/

namespace Sys2Proof.Tests

open Sys2Proof Sys2Proof.Machine

/-! ### Small states -/

/-- The state a command leads to; the state itself where there is none. -/
def after (c : Instr) (s : State) : State :=
  match exec c s with
  | .next t => t
  | .fault _ => s
  | .refused _ => s

/-- A double region of two lines: window 0000h, banks 1000h and 2000h, group 0, source A. -/
def double2 : Definition where
  double := some { bankB := 0x2000, group := 0 }
  window := 0
  size := 2
  bankA := 0x1000
  source := .a
  code := 0
  care := 0
  rotation := some { head := 0, body := 2, tail := 0, autoStep := 1 }

/-- The single region of the example of R131: H = 2, B = 6, T = 2. -/
def single10 : Definition where
  double := none
  window := 0x300000
  size := 10
  bankA := 0x500000
  source := .b
  code := 0x05
  care := 0x0F
  rotation := some { head := 2, body := 6, tail := 2, autoStep := 1 }

/-- Publish cycle items with these lines and counts. -/
def cycleOf (pub : PubState) (lines : List LineState) (stale dirty : Nat) : Cycle where
  pub := pub
  sealPending := false
  gen := 7
  front := .a
  stale := stale
  dirty := dirty
  readersA := 0
  readersB := 0
  writers := 0
  lines := lines

/-- A region record with nothing counted. -/
def regionOf (life : Life) (d : Definition) (c : Option Cycle) : Region where
  life := life
  defn := d
  health := .healthy
  score := 0
  missed := 0
  timeouts := 0
  refused := 0
  lastDiscard := 0
  conds := 0
  rot := d.rotation.map fun r => { offset := 0, staged := none, step := r.autoStep }
  cycle := c

/-- The state after reset with this record in slot 0. -/
def with0 (g : Region) : State := State.reset.putRegion 0 (some g)

/-- An ACTIVE double region in slot 0 with these lines. -/
def activeWith (pub : PubState) (lines : List LineState) (stale dirty : Nat) : State :=
  with0 (regionOf .active double2 (some (cycleOf pub lines stale dirty)))

/-- A read of one word. -/
def readAt (addr : Nat) : Request :=
  { kind := .read, wordAddr := BitVec.ofNat 26 (addr / 4), lengthLess1 := 0, enables := [], data := [], tag := 0 }

/-- A write of one word, every byte enabled. -/
def writeAt (addr : Nat) (tag : BitVec 6) : Request :=
  { kind := .write, wordAddr := BitVec.ofNat 26 (addr / 4), lengthLess1 := 0, enables := [0xF], data := [0xA5], tag := tag }

/-- A full-line write. -/
def lineWriteAt (addr : Nat) : Request :=
  { kind := .write, wordAddr := BitVec.ofNat 26 (addr / 4), lengthLess1 := 15, enables := List.replicate 16 0xF
    data := List.replicate 16 0x11, tag := 0 }

/-- A read of this many words. -/
def burstAt (addr words : Nat) : Request :=
  { kind := .read, wordAddr := BitVec.ofNat 26 (addr / 4), lengthLess1 := Fin.ofNat 16 (words - 1), enables := [], data := []
    tag := 0 }

/-- A transaction record. -/
def txOf (place : Nat) (req : Request) (state : TxState) (count : Option CountEntry) : Tx where
  place := place
  req := req
  region := some 0
  bank := some .b
  phys := some 0x2000
  state := state
  count := count

/-- A queue record of slot 0: one word of a line. -/
def recordOn (line : Nat) (target : BitVec 16) (selected : Bool) : QRecord where
  region := 0
  target := target
  line := line
  first := 0
  count := 1
  enables := [0xF]
  data := [0x22]
  selected := selected

/-- What a slot holds that copies a line of slot 0. -/
def copyOf (line : Nat) (phase : Phase) (attempt : Nat) (ending : Bool) : Copy where
  region := 0
  line := line
  source := .a
  target := .b
  phase := phase
  attempt := attempt
  demanded := false
  ending := ending
  buffer := []

/-- An entry of the outstanding list. -/
def outOf (owner : Owner) : Outstanding := { owner := owner, kind := .read, length := 1 }

/-! ### WellFormed refuses each ill-formed command -/

theorem test_wf_read_with_data : (Instr.requestAcceptance .p { readAt 0 with data := [1] }).wellFormed = false := by decide
theorem test_wf_read_with_enables : (Instr.requestAcceptance .p { readAt 0 with enables := [0xF] }).wellFormed = false := by
  decide
theorem test_wf_write_short_data : (Instr.requestAcceptance .p { writeAt 0 0 with data := [] }).wellFormed = false := by
  decide
theorem test_wf_write_short_enables :
    (Instr.requestAcceptance .p { writeAt 0 0 with enables := [] }).wellFormed = false := by decide
theorem test_wf_error_with_data : (Instr.mResponse .error [1]).wellFormed = false := by decide
theorem test_wf_too_much_data : (Instr.mResponse .okay (List.replicate 17 0)).wellFormed = false := by decide
theorem test_wf_known_code : (Instr.unknownCommand 0x20 0).wellFormed = false := by decide
theorem test_wf_whole_frame : (Instr.truncatedFrame (List.replicate 16 false)).wellFormed = false := by decide
theorem test_wf_good : (Instr.requestAcceptance .p (writeAt 0 0)).wellFormed = true ∧
    (Instr.truncatedFrame [true]).wellFormed = true ∧ (Instr.unknownCommand 0x55 0).wellFormed = true := by decide

/-! ### Frames, bit by bit from Tables 10-1, 10-2 and 10-4 -/

/-- PROBE (21h) of slot 3, line 0102h: the first bit on MDI is bit 7 of the command byte. -/
theorem test_frame_probe : decodeFrame
    [false, false, true, false, false, false, false, true, false, false, false, false, false, false, true, true,
     false, false, false, false, false, false, false, true, false, false, false, false, false, false, true, false] =
    some (.probe 3 0x0102) := by decide
/-- The same frame cut after 31 bits is truncated. -/
theorem test_frame_cut : decodeFrame
    [false, false, true, false, false, false, false, true, false, false, false, false, false, false, true, true,
     false, false, false, false, false, false, false, true, false, false, false, false, false, false, true] =
    some (.truncatedFrame
    [false, false, true, false, false, false, false, true, false, false, false, false, false, false, true, true,
     false, false, false, false, false, false, false, true, false, false, false, false, false, false, true]) := by decide
theorem test_frame_policy : decodeBytes [0x31, 0, 0x07, 0xD0, 8, 1, 0x1E, 0x00] = some (.policy 0 2000 8 1 0x1E00) := by
  decide
theorem test_frame_clear : decodeBytes [0x30, 0xFF, 0x02, 0x00, 0, 0x99] = some (.clear 0xFF 0x0200 0) := by decide
theorem test_frame_unknown : decodeBytes [0x40, 5] = some (.unknownCommand 0x40 5) := by decide

/-! ### Examples of the spec -/

/-- R5: 4 words at 103Ch cross into line 41h; 16 words at 1040h do not. -/
theorem test_R5_boundary : (burstAt 0x103C 4).crossesLine = true ∧ (burstAt 0x1040 16).crossesLine = false := by decide
/-- R23: a window at 0FFFC000h holds 256 lines and no more. -/
def windowAtTheTop (lines : BitVec 16) : DefineParams where
  flags := 0
  sourceGroup := 0
  code := 0
  care := 0
  window := 0x0FFFC000
  size := lines
  bankA := 0
  bankB := 0
  head := 0
  body := 0
  tail := 0
  autoStep := 0
theorem test_R23_top : defineOk (windowAtTheTop 256) = true ∧ defineOk (windowAtTheTop 257) = false := by decide
/-- Table 2-5: which tags pass. -/
theorem test_filter_examples :
    ((List.range 64).filter fun t => { double2 with code := 0x05, care := 0x0F }.filterPasses (BitVec.ofNat 6 t)) =
      [0x05, 0x15, 0x25, 0x35] ∧
    ((List.range 64).filter fun t => { double2 with code := 0x21, care := 0x21 }.filterPasses (BitVec.ofNat 6 t)).length = 16 ∧
    ((List.range 64).filter fun t => { double2 with code := 0x2A, care := 0x3F }.filterPasses (BitVec.ofNat 6 t)) = [0x2A] ∧
    ((List.range 64).filter fun t => { double2 with code := 0x3F, care := 0x20 }.filterPasses (BitVec.ofNat 6 t)).length = 32 ∧
    ((List.range 64).filter fun t => { double2 with code := 0x3F, care := 0x00 }.filterPasses (BitVec.ofNat 6 t)).length =
      64 := by decide
/-- Table 7-1. -/
theorem test_table_7_1 :
    ((List.range 10).map fun i => ({ head := 2, body := 6, tail := 2, autoStep := 0 } : Rotation).physLine 1 i) =
      [0, 1, 3, 4, 5, 6, 7, 2, 8, 9] ∧
    ((List.range 10).map fun i => ({ head := 2, body := 6, tail := 2, autoStep := 0 } : Rotation).physLine 5 i) =
      [0, 1, 7, 2, 3, 4, 5, 6, 8, 9] := by decide
/-- R131: the S read at 0300094h goes to 05000D4h at offset 1 and to 05001D4h at offset 5. -/
def scanAtOffset (offset : Nat) : List (Option Nat) :=
  ((after (.requestAcceptance .s (readAt 0x300094)) (with0
    { regionOf .active single10 none with rot := some { offset := offset, staged := none, step := 1 } })).sTracker.map
      (·.phys))
theorem test_R131_scan : scanAtOffset 1 = [some 0x5000D4] ∧ scanAtOffset 5 = [some 0x5001D4] := by decide
/-- R114: pointer at 5, work in regions 2, 5 and 9, four FREE slots. -/
def workIn (k : Nat) : Region :=
  regionOf .active
    { double2 with
      window := 0x100 * k, bankA := 0x10000 + 0x100 * k, double := some { bankB := 0x20000 + 0x100 * k, group := 0 } }
    (some (cycleOf .opened [.stale, .stale] 2 0))
def threeRegions : State :=
  { ((State.reset.putRegion 2 (some (workIn 2))).putRegion 5 (some (workIn 5))).putRegion 9 (some (workIn 9)) with
    rrPtr := 5 }
theorem test_R114_round :
    (threeRegions.copyTakes.slots.toList.map fun x => match x with
      | .copying c => (c.region.val, c.line)
      | .free => (99, 99)
      | .finishing _ _ => (99, 99)) = [(9, 0), (2, 0), (5, 0), (9, 1)] ∧ threeRegions.copyTakes.rrPtr = 9 := by decide
/-- R144: a score of 250 is made 256 by one report, and the region is fenced (R146). -/
def scored250 : State :=
  with0 { regionOf .active double2 (some (cycleOf .opened [.sync, .sync] 0 0)) with score := 250, health := .warned }
theorem test_R144_overshoot :
    ((scored250.reportError 0 false).region? 0).map (fun (g : Region) => (g.score, g.health, g.conds)) =
      some (256, Health.fenced, 0x0050) := by decide
/-- R165: with a floor of 2 the P path and the copy engine are granted in turn. -/
theorem test_R165_floor2 : grantsTo 2 6 0 0 = [.s, .p, .engine, .p, .engine, .p] := by decide

/-! ### What the statements ask of state and operands is met -/

theorem test_meets_StepTakesTheFrontCommand :
    { State.reset with pending := [.copyTake, .holdRelease] }.pending = .copyTake :: [.holdRelease] ∧
    State.reset.pending = [] := by decide

theorem test_meets_NothingIsTakenWhileResetIsLow :
    (after .hardReset State.reset).resetn = false ∧ Instr.devstatus 0 ≠ .hardReset ∧
    Instr.devstatus 0 ≠ .hardResetRelease := by decide

theorem test_meets_HardResetLeavesNothing :
    (after .hardReset (activeWith .opened [.sync, .dirty] 0 1)).resetn = false ∧
    (activeWith .opened [.sync, .dirty] 0 1).resetn = true := by decide

/-- A state with everything a soft reset looks at: a held write, a replay write issued, a slot in each state. -/
def busy : State :=
  { activeWith .opened [.copying, .stale] 2 0 with
    pTracker := [txOf 0 (readAt 0) (.done .okay [1]) none, txOf 1 (writeAt 0 0) (.held .copying 3 2000) none]
    replay := .issued 0 { kind := .write, addr := 0x2000, length := 1, enables := [0xF], data := [1], tag := 0x3F }
    slots := ((Vector.replicate 4 CopySlot.free).set 1 (.copying (copyOf 0 .read 1 false))).set 2 (.finishing 0 .write)
    outstanding := [outOf (.engine (.slot 1)), outOf (.engine (.slot 2)), outOf (.engine .replay)] }

theorem test_meets_SoftresetResult :
    busy.linkUp ∧ busy.region? 1 = none ∧ busy.region? 0 ≠ none ∧ busy.replay.isIssued = true ∧
    busy.slots[(0 : Fin 4)] = .free ∧ busy.slots[(1 : Fin 4)] = .copying (copyOf 0 .read 1 false) ∧
    busy.slots[(2 : Fin 4)] = .finishing 0 .write ∧
    (∃ o ∈ busy.outstanding, o.owner = .engine (.slot 1)) ∧ ¬ (after (.softreset 0) busy).mPortIdle := by decide
/-- The other side of each clause: no replay write, a copying slot with nothing outstanding, an idle port. -/
def quiet : State :=
  { activeWith .opened [.copying, .stale] 2 0 with
    slots := (Vector.replicate 4 CopySlot.free).set 1 (.copying (copyOf 0 .read 1 false)), ready := [.slot 1]
    presented := some (.slot 1) }
theorem test_meets_SoftresetResult_idle :
    quiet.linkUp ∧ quiet.replay.isIssued = false ∧ quiet.slots[(1 : Fin 4)] = .copying (copyOf 0 .read 1 false) ∧
    (∀ o ∈ quiet.outstanding, o.owner ≠ .engine (.slot 1)) ∧ (after (.softreset 0) quiet).mPortIdle := by decide

theorem test_meets_SoftResetEndsWhenThePortIsIdle :
    { State.reset with softReset := true }.mPortIdle ∧ ¬ (after (.softreset 0) busy).mPortIdle ∧
    (after (.softreset 0) busy).softReset = true := by decide

theorem test_meets_BusyDuringSoftReset :
    (after (.softreset 0) busy).resetn = true ∧ (after (.softreset 0) busy).softReset = true ∧
    encodeFrame (.scroll 3 5) = some [0x11, 3, 0, 5] := by decide

/-- Slot bytes 10h and FFh name no slot; slot 0Fh does, and DEFINE is not available on it when it is DEFINED. -/
theorem test_meets_SlotCommandsNeedTheirSlotState :
    State.reset.linkUp ∧ slotByte (.status 0x10) = some 0x10 ∧ encodeFrame (.status 0x10) = some [0x20, 0x10] ∧
    16 ≤ (0x10 : Byte).toNat ∧ slotByte (.retire 0x0F) = some 0x0F ∧ (0x0F : Byte).toNat = (15 : SlotNo).val ∧
    ¬ availableIn (.retire 0x0F) (State.reset.region? 15) := by decide

/-- R23's bound: 256 lines at 0FFFC000h are valid, 257 are not. -/
theorem test_meets_DefineAcks : State.reset.linkUp ∧ (0x0F : Byte).toNat = (15 : SlotNo).val ∧
    State.reset.region? 15 = none ∧ ValidDefinition (windowAtTheTop 256) ∧ ¬ ValidDefinition (windowAtTheTop 257) := by
  decide

/-- The parameters of double2. -/
def double2Params : DefineParams where
  flags := 0x0F
  sourceGroup := 0
  code := 0
  care := 0
  window := 0
  size := 2
  bankA := 0x1000
  bankB := 0x2000
  head := 0
  body := 2
  tail := 0
  autoStep := 1
theorem test_meets_ReaddefReturnsTheDefinition :
    (with0 (regionOf .defined double2 none)).linkUp ∧ (0 : Byte).toNat = (0 : SlotNo).val ∧
    (with0 (regionOf .defined double2 none)).region? 0 = some (regionOf .defined double2 none) ∧
    ValidDefinition double2Params ∧ double2.holds double2Params ∧ State.reset.region? 0 = none := by
  decide
/-- READDEF of it, bit for bit but for the free bits of bytes 0 to 3. -/
theorem test_readdef_bytes : ((readdefBytes double2 fun _ => 0)) =
    [0x0F, 0, 0, 0, 0, 0, 0, 0, 0, 2, 0, 0, 0x10, 0, 0, 0, 0x20, 0, 0, 0, 0, 2, 0, 0, 0, 1] := by decide

theorem test_meets_UndefineFreesTheSlot :
    (with0 (regionOf .defined double2 none)).linkUp ∧
    (with0 (regionOf .defined double2 none)).region? 0 = some (regionOf .defined double2 none) ∧
    (regionOf .defined double2 none).life = .defined ∧
    (∀ g ∈ (activeWith .opened [.sync, .sync] 0 0).region? 0, g.life ≠ .defined) := by decide

/-- An ACTIVE region in slot 0 and a DEFINED one in slot 1 that shares its window's last line, or starts just past it. -/
def beside (window : Nat) : State :=
  (activeWith .opened [.sync, .sync] 0 0).putRegion 1 (some (regionOf .defined
    { double2 with window := window, bankA := 0x11000, double := some { bankB := 0x12000, group := 1 } } none))
theorem test_meets_ActivateRefusals_clash : (beside 0x40).linkUp ∧ (1 : Byte).toNat = (1 : SlotNo).val ∧
    (∃ g ∈ (beside 0x40).region? 1, g.life = .defined ∧ (beside 0x40).clashing 1 g.defn) ∧
    ∃ g ∈ (beside 0x80).region? 1, g.life = .defined ∧ ¬ (beside 0x80).clashing 1 g.defn := by
  refine ⟨by decide, rfl, ⟨_, rfl, rfl, ?_⟩, ⟨_, rfl, rfl, ?_⟩⟩
  · rw [← State.clashes_iff]; decide
  · rw [← State.clashes_iff]; decide
/-- A pool with 16383 entries in use, and with 16382: two lines more are one too many, and fit. -/
def poolWith (n : Nat) : State :=
  (with0 (regionOf .active
    { double2 with
      size := n, window := 0x1000000, bankA := 0x2000000, double := some { bankB := 0x3000000, group := 0 } }
    (some (cycleOf .opened (List.replicate n .sync) 0 0)))).putRegion 1 (some (regionOf .defined double2 none))
theorem test_meets_poolUsed (n : Nat) : (poolWith n).poolUsed = n := by
  simp [State.poolUsed, poolWith, with0, State.putRegion, State.reset, regionOf, cycleOf, Region.poolHeld,
    Vector.toList_set, List.replicate]
theorem test_meets_ActivateRefusals_pool : (poolWith 16383).linkUp ∧
    (poolWith 16383).region? 1 = some (regionOf .defined double2 none) ∧
    ¬ (poolWith 16383).clashing 1 double2 ∧ double2.double.isSome = true ∧
    16384 < (poolWith 16383).poolUsed + double2.size := by
  refine ⟨⟨rfl, rfl⟩, State.region?_putRegion_self _ 1 _, ?_, rfl, by rw [test_meets_poolUsed]; decide⟩
  rw [← State.clashes_iff]; decide
theorem test_meets_ActivateResult : (poolWith 16382).linkUp ∧
    (poolWith 16382).region? 1 = some (regionOf .defined double2 none) ∧ (poolWith 16382).noWorkOf 1 ∧
    ¬ (poolWith 16382).clashing 1 double2 ∧ (poolWith 16382).poolUsed + double2.size ≤ 16384 := by
  refine ⟨⟨rfl, rfl⟩, State.region?_putRegion_self _ 1 _, ?_, ?_, by rw [test_meets_poolUsed]; decide⟩
  · simp only [State.noWorkOf]; decide
  · rw [← State.clashes_iff]; decide

/-- RETIRE: an ACTIVE region with records and a held transaction, and one with nothing in flight. -/
def loaded : State :=
  { activeWith .sealWait [.copying, .dirty] 1 1 with
    queue := [recordOn 1 8 true, recordOn 1 9 false], replay := .waiting .read
    pTracker := [txOf 0 (writeAt 0x40 0) (.held .queue 0 2000) none]
    slots := (Vector.replicate 4 CopySlot.free).set 3 (.copying (copyOf 0 .write 2 false)) }
theorem test_meets_RetireResult :
    loaded.linkUp ∧ (∃ g ∈ loaded.region? 0, g.life = .active) ∧ loaded.notIssued 0 = 2 ∧
    (∃ u ∈ loaded.pTracker, u.isHeld = true ∧ u.region = some 0) ∧
    loaded.slots[(3 : Fin 4)] = .copying (copyOf 0 .write 2 false) ∧
    (activeWith .opened [.sync, .sync] 0 0).linkUp ∧ (activeWith .opened [.sync, .sync] 0 0).notIssued 0 = 0 ∧
    loaded.replay = .waiting .read ∧ (∃ r ∈ loaded.queue, r.selected = true ∧ r.region = 0) ∧
    (∀ r ∈ { loaded with queue := [] }.queue, r.selected = true → r.region ≠ 0) ∧ busy.replay.isIssued = true := by decide
/-- R40: nothing in flight at the RETIRE, and a held transaction and a copy in flight. -/
theorem test_meets_RetireResult_flight :
    (activeWith .opened [.sync, .sync] 0 0).nothingInFlight 0 ∧ ¬ loaded.nothingInFlight 0 := by
  simp only [← State.nothingLeft_iff]
  decide
theorem test_retire_at_once :
    (((after (.retire 0) (activeWith .opened [.sync, .sync] 0 0)).region? 0).map fun (g : Region) => (g.life, g.conds)) =
      some (Life.defined, 0x0100) := by decide
theorem test_retire_waits :
    (((after (.retire 0) loaded).region? 0).map fun (g : Region) => (g.life, g.conds, g.lastDiscard)) =
      some (Life.retiring, 0x0080, 2) ∧ (after (.retire 0) loaded).queue = [] ∧ (after (.retire 0) loaded).replay = .idle := by
  decide

/-- A HALTED region, with this many readers of its draft bank. -/
def fencedWith (readers : Nat) : State :=
  with0 { regionOf .active double2 (some { cycleOf .halted [.dirty, .sync] 0 1 with readersB := readers }) with
    health := .fenced, score := 256, conds := 0x0050 }
theorem test_meets_ReviveResult : (fencedWith 0).linkUp ∧ (fencedWith 0).noWorkOf 0 ∧ (fencedWith 1).noWorkOf 0 ∧
    ∃ g ∈ (fencedWith 1).region? 0, g.life = .active ∧ g.health = .fenced ∧ ∃ c ∈ g.cycle, c.pub = .halted := by decide
theorem test_revive_draining :
    (((after (.revive 0) (fencedWith 1)).region? 0).bind fun (g : Region) => g.cycle.map fun c => (c.pub, c.stale, c.lines)) =
      some (.draining, 2, [.stale, .stale]) := by decide

/-- Offsets 1 and 2 at B = 2: the last good one and the first bad one. -/
theorem test_meets_ScrollAndStep :
    (activeWith .opened [.sync, .sync] 0 0).linkUp ∧ (1 : BitVec 16).toNat < 2 ∧ ¬ (2 : BitVec 16).toNat < 2 ∧
    (∃ g ∈ (activeWith .opened [.sync, .sync] 0 0).region? 0, g.life = .active ∧
      (∃ r ∈ g.defn.rotation, r.body = 2) ∧ g.rot ≠ none) ∧
    (∃ g ∈ (with0 (regionOf .defined double2 none)).region? 0, g.life = .defined ∧ g.rot ≠ none) ∧
    ∃ g ∈ (with0 (regionOf .active { double2 with rotation := none } none)).region? 0, g.defn.rotation = none := by decide

theorem test_meets_StatusReportsTheRecord : State.reset.linkUp ∧ State.reset.region? 15 = none ∧
    (0x0F : Byte).toNat = (15 : SlotNo).val ∧
    (∃ g ∈ loaded.region? 0, g.cycle ≠ none ∧ g.rot ≠ none) ∧
    ∃ g ∈ (with0 (regionOf .active { double2 with rotation := none } none)).region? 0, g.cycle = none ∧ g.rot = none := by
  decide

/-- Line 1 is the last of the region, line 2 the first past it; line 0 is held by a slot, line 1 demanded. -/
def probed : State :=
  { activeWith .opened [.copying, .stale] 2 0 with
    slots := (Vector.replicate 4 CopySlot.free).set 3 (.copying (copyOf 0 .write 3 false))
    demand := [⟨0, 1, .replay⟩] }
theorem test_meets_ProbeReportsTheLine :
    probed.linkUp ∧ (∃ g ∈ probed.region? 0, ∃ c ∈ g.cycle, c.lines[(0 : BitVec 16).toNat]? = some .copying ∧
      c.lines[(1 : BitVec 16).toNat]? = some .stale ∧ c.lines.length ≤ (2 : BitVec 16).toNat) ∧
    probed.slots[(3 : Fin 4)] = .copying (copyOf 0 .write 3 false) ∧
    probed.demand = [] ++ ⟨0, 1, .replay⟩ :: [] := by decide

/-- Region kinds end at bit 8, device kinds go from 9 to 12, options at bit 0. -/
theorem test_meets_ClearRemovesTheListedConditions :
    loaded.linkUp ∧ (0x01FF : Kinds) &&& 0x01FF = 0x01FF ∧ (0x0200 : Kinds) &&& 0x01FF ≠ 0x0200 ∧
    (0x1E00 : Kinds) &&& 0x1E00 = 0x1E00 ∧ (0x2000 : Kinds) &&& 0x1E00 ≠ 0x2000 ∧ 2 ≤ (2 : Byte).toNat ∧
    (∃ g ∈ loaded.region? 0, ∀ c ∈ g.cycle, c.pub ≠ .halted) ∧
    ∃ g ∈ (fencedWith 0).region? 0, ∃ c ∈ g.cycle, c.pub = .halted := by decide

theorem test_meets_DevstatusReportsTheDevice : loaded.resetn = true ∧ loaded.region? 0 ≠ none := by decide

/-- The ends of every range of POLICY, and the first value past each. -/
theorem test_meets_PolicySetsAllFour :
    State.reset.linkUp ∧ 1 ≤ (1 : BitVec 16).toNat ∧ 2 ≤ (2 : Byte).toNat ∧ (16 : Byte).toNat ≤ 16 ∧ (1 : Byte).toNat ≤ 1 ∧
    (0x1FFF : Kinds) &&& 0x1FFF = 0x1FFF ∧ (1 : Byte).toNat < 2 ∧ 16 < (17 : Byte).toNat ∧ 1 < (2 : Byte).toNat ∧
    (0x2000 : Kinds) &&& 0x1FFF ≠ 0x2000 := by decide

/-- STATUS (20h) is taken at its 16th bit; 15 bits are too few. -/
theorem test_meets_FramesThatAreNoCommand :
    paramCount 0x08 = none ∧ paramCount 0x40 = none ∧
    (bitsOfByte 0x20 ++ List.replicate 7 false).length < 8 * takenAfter
      (byteOfBits ((bitsOfByte 0x20 ++ List.replicate 7 false).take 8)) ∧
    ¬ (bitsOfByte 0x20 ++ List.replicate 8 false).length < 8 * takenAfter
      (byteOfBits ((bitsOfByte 0x20 ++ List.replicate 8 false).take 8)) := by decide

theorem test_meets_FramesAreReadBack : (Instr.define 3 double2Params).wellFormed = true ∧
    encodeFrame (.define 3 double2Params) ≠ none ∧ (Instr.unknownCommand 0x3E 0).wellFormed = true ∧
    encodeFrame (.unknownCommand 0x3E 0) = some [0x3E, 0] ∧ (after (.devstatus 0) State.reset).reply ≠ none ∧
    State.reset.reply = none ∧ State.reset.replyAgrees := by decide
/-- DEVSTATUS after reset (Tables 10-1, 10-7, 10-8): three bytes of 00h, ACK, the data with the floor 08h as its byte 9, then 00h. -/
theorem test_mdo : ([0, 1, 2, 3, 13, 17, 200].map (after (.devstatus 0) State.reset).mdo) = [0, 0, 0, 0x01, 0x08, 0, 0] := by
  decide

/-- A tracker of 8 does not accept, one of 7 does; the P port does not accept beside a held transaction. -/
def sFull (n : Nat) : State :=
  { State.reset with sTracker := (List.range n).map fun i => txOf i (readAt 0) .issued none }
theorem test_meets_UntakenOffersLeaveNoTrace :
    ¬ (sFull 8).canAccept .s ∧ (sFull 7).canAccept .s ∧ ¬ loaded.canAccept .p ∧
    (∀ t ∈ ((sFull 8).tracker .s).head?, t.state = .issued) ∧ (sFull 8).outstanding = [] ∧ (sFull 8).mRequest = none := by
  decide

theorem test_meets_CrossingBurst : State.reset.canAccept .p ∧ ¬ withinLine (burstAt 0x103C 2) ∧
    withinLine (burstAt 0x1040 16) := by decide

/-- 80h is the first byte past the window; 107Ch and 1080h are the last word of bank A and the first past it. -/
theorem test_meets_UnmatchedAccesses :
    (activeWith .opened [.sync, .sync] 0 0).canAccept .s ∧ withinLine (readAt 0x107C) ∧
    (activeWith .opened [.sync, .sync] 0 0).unmatched (readAt 0x80) ∧
    (activeWith .opened [.sync, .sync] 0 0).unmatched (readAt 0x107C) ∧
    (activeWith .opened [.sync, .sync] 0 0).inGuardedBank (readAt 0x107C) ∧
    ¬ (activeWith .opened [.sync, .sync] 0 0).inGuardedBank (readAt 0x1080) ∧
    (activeWith .opened [.sync, .sync] 0 0).refuseUnmatched = false := by decide

/-- An ACTIVE region with code 05h and care mask 0Fh: tag 15h passes, tag 04h does not. -/
def filtered (pub : PubState) : Region :=
  regionOf .active { double2 with code := 0x05, care := 0x0F } (some (cycleOf pub [.sync, .sync] 0 0))
theorem test_meets_WritesAnsweredAtOnce :
    (with0 (filtered .halted)).canAccept .p ∧ withinLine (writeAt 0x7C 0x15) ∧
    (with0 (filtered .halted)).matches (writeAt 0x7C 0x15) 0 (filtered .halted) ∧
    (filtered .halted).defn.passesTag 0x15 ∧ ¬ (filtered .halted).defn.passesTag 0x04 ∧
    (∃ c ∈ (filtered .halted).cycle, c.pub = .halted) ∧ (with0 (filtered .halted)).canAccept .s := by decide

theorem test_meets_SingleRegionAccesses :
    (with0 (regionOf .active single10 none)).canAccept .p ∧ withinLine (writeAt 0x30027C 0x35) ∧
    (with0 (regionOf .active single10 none)).matches (writeAt 0x30027C 0x35) 0 (regionOf .active single10 none) ∧
    (regionOf .active single10 none).cycle = none ∧ single10.passesTag 0x35 ∧
    (with0 (regionOf .active single10 none)).matches (readAt 0x300000) 0 (regionOf .active single10 none) := by decide

/-- A record covers the first word of line 1: a read of that word overlaps it, a read of the next word does not. -/
def posted1 (pub : PubState) : State := { activeWith pub [.sync, .dirty] 0 1 with queue := [recordOn 1 8 false] }
theorem test_meets_ReadsOfADoubleRegion :
    (posted1 .opened).canAccept .p ∧ (posted1 .opened).canAccept .s ∧ withinLine (readAt 0x40) ∧
    (∃ g ∈ (posted1 .opened).region? 0, (posted1 .opened).matches (readAt 0x40) 0 g ∧ g.cycle ≠ none) ∧
    ∃ g ∈ (posted1 .halted).region? 0, ∃ c ∈ g.cycle, c.pub = .halted := by decide
theorem test_meets_ReadsOfADoubleRegion_overlap :
    (posted1 .opened).overlapped 0 double2 (readAt 0x40) ∧ ¬ (posted1 .opened).overlapped 0 double2 (readAt 0x44) ∧
    ¬ (posted1 .opened).overlapped 0 double2 (readAt 0x3C) := by
  simp only [← State.overlapsQueue_iff]
  decide

theorem test_meets_DirectDraftWrites :
    (activeWith .opened [.stale, .copying] 2 0).canAccept .p ∧ withinLine (lineWriteAt 0) ∧ isFullLine (lineWriteAt 0) ∧
    (∀ r ∈ (activeWith .opened [.stale, .copying] 2 0).queue, r.region ≠ 0) ∧
    ∃ g ∈ (activeWith .opened [.stale, .copying] 2 0).region? 0,
      (activeWith .opened [.stale, .copying] 2 0).matches (lineWriteAt 0) 0 g ∧ g.defn.passesTag 0 ∧
      ∃ c ∈ g.cycle, c.pub = .opened ∧ c.lines[0]? = some .stale ∧ c.lines[(0x7C - 0) / 64]? = some .copying := by decide
theorem test_meets_DirectDraftWrites_partial :
    ¬ isFullLine { lineWriteAt 0 with enables := 0xE :: List.replicate 15 0xF } ∧
    ∃ g ∈ (activeWith .opened [.stale, .copying] 2 0).region? 0,
      (activeWith .opened [.stale, .copying] 2 0).matches (writeAt 0x7C 0) 0 g := by decide
theorem test_meets_DirectDraftWrites_dirty :
    ∃ g ∈ (activeWith .opened [.sync, .dirty] 0 1).region? 0,
      (activeWith .opened [.sync, .dirty] 0 1).matches (writeAt 0x40 0) 0 g ∧
      ∃ c ∈ g.cycle, c.lines[0]? = some .sync ∧ c.lines[1]? = some .dirty := by decide

/-- 31 records leave a place, 32 leave none. -/
def queued (n : Nat) : State :=
  { activeWith .opened [.sync, .sync] 0 0 with queue := List.replicate n (recordOn 1 8 false) }
theorem test_meets_PostedWrites :
    (queued 31).canAccept .p ∧ withinLine (writeAt 0x40 0) ∧ (queued 31).queue.length < 32 ∧
    32 ≤ (queued 32).queue.length ∧ (∃ r ∈ (queued 32).queue, r.region = 0) ∧
    (∃ g ∈ (queued 32).region? 0, (queued 32).matches (writeAt 0x40 0) 0 g ∧ g.defn.passesTag 0 ∧
      ∃ c ∈ g.cycle, c.pub ≠ .halted) ∧
    ∃ g ∈ (activeWith .draining [.sync, .sync] 0 0).region? 0, ∃ c ∈ g.cycle, c.pub ≠ .opened ∧ c.pub ≠ .halted := by
  decide
/-- R97: a write posted in SEAL_WAIT belongs to the generation after next. -/
theorem test_posted_target :
    ((after (.requestAcceptance .p (writeAt 0x40 0)) (activeWith .sealWait [.stale, .sync] 1 0)).queue.map
      fun r => (r.target, r.line, r.first, r.count)) = [(9, 1, 0, 1)] := by decide

/-- A response of each kind of count. -/
def answered (e : Option CountEntry) : State :=
  { with0 (regionOf .active double2
      (some { cycleOf .opened [.sync, .sync] 0 0 with readersA := 1, readersB := 1, writers := 1 })) with
    pTracker := [txOf 0 (readAt 0) (.done .okay [1]) e] }
theorem test_meets_ResponseTakenLeavesTheCount :
    (answered none).tracker .p = txOf 0 (readAt 0) (.done .okay [1]) none :: [] ∧
    (answered (some .writer)).tracker .p = txOf 0 (readAt 0) (.done .okay [1]) (some .writer) :: [] ∧
    (answered (some (.reader .a))).tracker .p = txOf 0 (readAt 0) (.done .okay [1]) (some (.reader .a)) :: [] ∧
    (answered (some (.reader .b))).resetn = true ∧
    ∃ g ∈ (answered (some (.reader .b))).region? 0, ∃ c ∈ g.cycle, c.readersB = 1 := by decide

/-- A P transaction held for this reason, its access on this byte. -/
def holding (reason : HoldReason) (addr : Nat) (lines : List LineState) (queue : List QRecord) (age limit : Nat) : State :=
  { activeWith .opened lines 0 0 with
    pTracker := [txOf 0 (readAt 0) .issued none, txOf 1 (writeAt addr 0) (.held reason age limit) none], queue := queue }
theorem test_meets_HoldReleaseByReason :
    (holding .demand 0x40 [.sync, .dirty] [] 0 2000).holdsYoungest [txOf 0 (readAt 0) .issued none]
      (txOf 1 (writeAt 0x40 0) (.held .demand 0 2000) none) .demand 0 2000 ∧
    (holding .copying 0x40 [.sync, .copying] [] 0 2000).holdsYoungest [txOf 0 (readAt 0) .issued none]
      (txOf 1 (writeAt 0x40 0) (.held .copying 0 2000) none) .copying 0 2000 ∧
    (holding .demand 0x40 [.sync, .dirty] [] 0 2000).resetn = true ∧
    ∃ g ∈ (holding .demand 0x40 [.sync, .dirty] [] 0 2000).region? 0, ∃ c ∈ g.cycle,
      c.lines[g.defn.lineOf 0x40]? = some .dirty := by decide
/-- 31 records leave a place for the record of a write held QUEUE, 32 leave none. -/
theorem test_meets_HoldReleaseByReason_queue :
    (holding .queue 0 [.sync, .dirty] (List.replicate 31 (recordOn 1 8 false)) 0 9).queue.length < 32 ∧
    32 ≤ (holding .queue 0 [.sync, .dirty] (List.replicate 32 (recordOn 1 8 false)) 0 9).queue.length ∧
    (holding .queue 0 [.sync, .dirty] [] 0 9).holdsYoungest [txOf 0 (readAt 0) .issued none]
      (txOf 1 (writeAt 0 0) (.held .queue 0 9) none) .queue 0 9 := by decide
theorem test_meets_HoldReleaseByReason_overlap :
    (holding .overlap 0x40 [.sync, .dirty] [recordOn 1 8 false] 0 9).overlapped 0 double2 (writeAt 0x40 0) ∧
    ¬ (holding .overlap 0x44 [.sync, .dirty] [recordOn 1 8 false] 0 9).overlapped 0 double2 (writeAt 0x44 0) := by
  simp only [← State.overlapsQueue_iff]
  decide

/-- Ages 1998 and 1999 at a limit of 2000: the next advance keeps the hold, and ends it. -/
theorem test_meets_TimeAndHoldExpiry :
    (holding .queue 0 [.sync] [] 1998 2000).holdsYoungest [txOf 0 (readAt 0) .issued none]
      (txOf 1 (writeAt 0 0) (.held .queue 1998 2000) none) .queue 1998 2000 ∧ 1998 + 1 < 2000 ∧
    (holding .queue 0 [.sync] [] 1999 2000).holdsYoungest [txOf 0 (readAt 0) .issued none]
      (txOf 1 (writeAt 0 0) (.held .queue 1999 2000) none) .queue 1999 2000 ∧ 2000 ≤ 1999 + 1 ∧
    (holding .queue 0 [.sync] [] 1999 2000).region? 0 ≠ none ∧
    ∀ u ∈ State.reset.pTracker, u.isHeld = false := by decide
theorem test_hold_expires :
    ((after .timeBaseAdvance (holding .queue 0 [.sync] [] 1999 2000)).pTracker.map (·.state)) =
      [.issued, .done .timeout []] := by decide

/-- All three requesters present; the counts are the passed-over counts, with a floor of 8. -/
def contending (p c : Nat) : State :=
  { activeWith .opened [.copying, .sync] 1 0 with
    pTracker := [txOf 0 (readAt 0) .accepted none], sTracker := [txOf 0 (readAt 0) .accepted none]
    slots := (Vector.replicate 4 CopySlot.free).set 1 (.copying (copyOf 0 .write 1 false)), ready := [.slot 1]
    presented := some (.slot 1), pPassed := p, cPassed := c }
/-- Passed over 7 times, the P path is at its floor; 6 times, it is not. -/
theorem test_meets_GrantFollowsTheFloorRule :
    (contending 7 7).resetn = true ∧ (contending 7 7).outstanding.length < 8 ∧ (contending 7 7).mRequest = none ∧
    2 ≤ (contending 7 7).floor ∧ (∀ e ∈ (contending 7 7).presented, (contending 7 7).engineRequest e ≠ none) ∧
    ((contending 7 7).presents .p).isSome = true ∧ (contending 7 7).presented.isSome = true ∧
    ((contending 7 7).presents .s).isSome = true ∧ (contending 7 7).floor - 1 ≤ (contending 7 7).pPassed ∧
    (contending 7 7).floor - 1 ≤ (contending 7 7).cPassed ∧ (contending 6 6).pPassed < (contending 6 6).floor - 1 ∧
    (contending 6 6).cPassed < (contending 6 6).floor - 1 := by decide
theorem test_meets_GrantSendsTheRequest :
    (contending 7 7).grantee = some .p ∧ (contending 6 7).grantee = some .engine ∧ (contending 6 6).grantee = some .s ∧
    State.reset.grantee = none ∧ (contending 6 7).readyNow = [] ∧
    (contending 6 7).engineRequest (.slot 1) ≠ none ∧ busy.replay.isIssued = true ∧
    (contending 7 7).pTracker = [] ++ txOf 0 (readAt 0) .accepted none :: [] ∧
    (contending 6 6).sTracker = [] ++ txOf 0 (readAt 0) .accepted none :: [] ∧
    quiet.slots[(1 : Fin 4)] = .copying (copyOf 0 .read 1 false) ∧
    (contending 6 7).slots[(1 : Fin 4)] = .copying (copyOf 0 .write 1 false) ∧ quiet.region? 0 ≠ none ∧
    (contending 6 6).mRequest = none ∧ (contending 6 6).outstanding.length < 8 ∧
    (∃ t ∈ (contending 6 6).pTracker, t.state = .accepted) := by decide
/-- R162: no grant while a request waits for the memory, nor at 8 outstanding requests; one at 7. -/
theorem test_no_grant :
    { contending 6 6 with mRequest := some { kind := .read, addr := 0, length := 1, enables := [], data := [], tag := 0 } }.grantee =
      none ∧
    { contending 6 6 with outstanding := List.replicate 8 (outOf (.port .s 3)) }.grantee = none ∧
    { contending 6 6 with outstanding := List.replicate 7 (outOf (.port .s 3)) }.grantee = some .s := by decide
theorem test_copy_write_request :
    ((after .arbiterGrant (contending 6 7)).mRequest.map fun r => (r.kind, r.addr, r.length, r.tag)) =
      some (.write, 0x2000, 16, 0x3F) := by decide

/-- The floor's ends, and the counts' ends at the smallest floor. -/
theorem test_meets_GrantsFallIntoPeriods : 2 ≤ 2 ∧ 1 < 2 ∧ 2 ≤ 2 ∧ (2 = 2 → 0 = 0) ∧ (1 = 2 → 1 = 0) := by decide

/-- A request that waits for the memory, with one requester behind it. -/
def sent : State :=
  { contending 0 0 with
    mRequest := some { kind := .read, addr := 0x1000, length := 1, enables := [], data := [], tag := 0 }
    outstanding := [outOf (.port .s 3)] }
theorem test_meets_MemoryTakesTheRequest : sent.resetn = true ∧ sent.mRequest ≠ none ∧
    (after .memoryTakesRequest sent).outstanding.length = 2 := by decide

/-- A read of the P port is outstanding, in a region with this score. -/
def reading (score : Nat) (health : Health) (region : Option SlotNo) : State :=
  { with0 { regionOf .active double2 (some (cycleOf .opened [.sync, .sync] 0 0)) with score := score, health := health } with
    pTracker := [{ txOf 2 (readAt 0) .issued none with region := region }], outstanding := [outOf (.port .p 2)] }
/-- 247 is the last score one report leaves below 256, 248 the first it brings to it. -/
theorem test_meets_MResponseToAPort :
    (reading 247 .warned (some 0)).outstanding = outOf (.port .p 2) :: [] ∧ (reading 247 .warned (some 0)).resetn = true ∧
    (reading 247 .warned (some 0)).tracker .p = [] ++ txOf 2 (readAt 0) .issued none :: [] ∧
    (∃ g ∈ (reading 247 .warned (some 0)).region? 0, ¬ g.fencesAt) ∧
    (∃ g ∈ (reading 248 .warned (some 0)).region? 0, g.fencesAt) ∧
    (∃ u ∈ (reading 0 .healthy none).pTracker, u.region = none ∧ u.state = .issued) ∧
    ∀ u ∈ State.reset.tracker .p, ¬ (u.place = 2 ∧ u.state = .issued) := by decide
/-- R145: the report that brings 88 to 96 warns, the one that brings 87 to 95 does not. -/
theorem test_warned_at_96 :
    (((after (.mResponse .error []) (reading 88 .healthy (some 0))).region? 0).map
      fun (g : Region) => (g.score, g.health, g.conds)) = some (96, .warned, 0x0030) ∧
    (((after (.mResponse .error []) (reading 87 .healthy (some 0))).region? 0).map
      fun (g : Region) => (g.score, g.health, g.conds)) = some (95, .healthy, 0x0010) := by decide

theorem test_meets_FenceChangesEveryBlock : (∃ g ∈ loaded.region? 0, g.cycle ≠ none) ∧
    loaded.slots[(3 : Fin 4)] = .copying (copyOf 0 .write 2 false) := by decide

/-- A slot with line 0 of the region, its operation outstanding. -/
def slotWaits (phase : Phase) (attempt : Nat) (ending : Bool) (score : Nat) : State :=
  { with0 { regionOf .active double2 (some (cycleOf .opened [.copying, .sync] 1 0)) with
      score := score, health := if 96 ≤ score then .warned else .healthy } with
    slots := (Vector.replicate 4 CopySlot.free).set 2 (.copying (copyOf 0 phase attempt ending))
    outstanding := [outOf (.engine (.slot 2))] }
/-- A FINISHING slot, its operation the oldest outstanding one. -/
def finishing2 : State :=
  { State.reset with
    slots := (Vector.replicate 4 CopySlot.free).set 2 (.finishing 0 .write), outstanding := [outOf (.engine (.slot 2))] }
/-- Attempts 2 and 3: a retry and a fence; scores 247 and 248 as above. -/
theorem test_meets_MResponseToACopySlot :
    (slotWaits .read 2 false 247).outstanding = outOf (.engine (.slot 2)) :: [] ∧
    (slotWaits .read 2 false 247).readyNow = [] ∧ (slotWaits .read 2 false 247).resetn = true ∧
    (slotWaits .read 2 false 247).slots[(2 : Fin 4)] = .copying (copyOf 0 .read 2 false) ∧
    (∃ g ∈ (slotWaits .read 2 false 247).region? 0, g.life ≠ .defined ∧ g.health ≠ .fenced ∧ ¬ g.fencesAt ∧
      ∃ c ∈ g.cycle, c.lines[0]? = some .copying) ∧
    (∃ g ∈ (slotWaits .write 1 false 248).region? 0, g.fencesAt) ∧ 2 < 3 ∧ 3 ≤ 3 ∧
    (slotWaits .write 3 true 0).slots[(2 : Fin 4)] = .copying (copyOf 0 .write 3 true) ∧
    finishing2.slots[(2 : Fin 4)] = .finishing 0 .write ∧ finishing2.resetn = true ∧ finishing2.readyNow = [] ∧
    finishing2.outstanding = outOf (.engine (.slot 2)) :: [] := by decide
theorem test_copy_ends :
    (((after (.mResponse .okay []) (slotWaits .write 1 false 0)).region? 0).bind
      fun (g : Region) => g.cycle.map fun c => (c.lines, c.stale, c.dirty)) = some ([.sync, .sync], 0, 0) := by decide
theorem test_third_failure_fences :
    (((after (.mResponse .error []) (slotWaits .read 3 false 24)).region? 0).map
      fun (g : Region) => (g.score, g.health)) = some (256, .fenced) := by decide
/-- R143, R145: the report of a third failure is applied before the fence, and sets WARNED where it brings 88 to 96, not where it
brings 87 to 95. -/
theorem test_third_failure_warns :
    (((after (.mResponse .error []) (slotWaits .read 3 false 88)).region? 0).map
      fun (g : Region) => (g.score, g.health, g.conds)) = some (256, .fenced, 0x0070) ∧
    (((after (.mResponse .error []) (slotWaits .read 3 false 87)).region? 0).map
      fun (g : Region) => (g.score, g.health, g.conds)) = some (256, .fenced, 0x0050) := by decide

/-- A replay write is outstanding, its record still queued, or gone. -/
def replayWaits (queue : List QRecord) (score : Nat) : State :=
  { with0 { regionOf .active double2 (some (cycleOf .opened [.sync, .dirty] 0 1)) with
      score := score, health := if 96 ≤ score then .warned else .healthy } with
    queue := queue, replay := .issued 0 { kind := .write, addr := 0x2040, length := 1, enables := [0xF], data := [1], tag := 0x3F }
    outstanding := [outOf (.engine .replay)] }
theorem test_meets_MResponseToTheReplayUnit :
    (replayWaits [recordOn 1 8 true] 247).outstanding = outOf (.engine .replay) :: [] ∧
    (replayWaits [recordOn 1 8 true] 247).resetn = true ∧ (replayWaits [recordOn 1 8 true] 247).replay.isIssued = true ∧
    (∃ r ∈ (replayWaits [recordOn 1 8 true] 247).queue, r.selected = true) ∧
    (∀ r ∈ (replayWaits [recordOn 1 8 false] 0).queue, r.selected = false) ∧
    (∃ g ∈ (replayWaits [recordOn 1 8 true] 247).region? 0, ¬ g.fencesAt) ∧
    ∃ g ∈ (replayWaits [recordOn 1 8 true] 248).region? 0, g.fencesAt := by decide

/-- Lines 0 and 1 are work; the demand list names line 1. -/
def work2 (demand : List DemandEntry) : State := { activeWith .opened [.stale, .stale] 2 0 with demand := demand }
theorem test_meets_CopyTakeOrder :
    (work2 []).resetn = true ∧ (work2 []).readyNow = [] ∧ (work2 []).slots[(0 : Fin 4)] = .free ∧
    (work2 []).demand = [] ∧ distance 15 0 = 0 ∧ distance 15 15 = 15 ∧ distance 5 6 = 0 ∧
    (work2 [⟨0, 1, .replay⟩]).demand = [] ++ ⟨0, 1, .replay⟩ :: [] := by decide
theorem test_meets_CopyTakeOrder_work : (work2 []).catchUp 0 0 ∧ (work2 []).catchUp 0 1 ∧ ¬ (work2 []).catchUp 0 2 ∧
    ¬ (work2 []).catchUp 1 0 ∧ ¬ (activeWith .isSealed [.sync, .sync] 0 0).catchUp 0 0 := by
  simp only [← State.isWork_iff]
  decide
theorem test_demand_first : ((after .copyTake (work2 [⟨0, 1, .replay⟩])).slots[(0 : Fin 4)]) =
    .copying { copyOf 1 .read 1 false with demanded := true } ∧ (after .copyTake (work2 [⟨0, 1, .replay⟩])).demand = [] := by
  decide

/-- Records of the draft generation 8 and of the generation after it. -/
def replaying (lines : List LineState) (replay : Replay) (selected : Bool) : State :=
  { activeWith .opened lines 0 0 with queue := [recordOn 0 9 false, recordOn 1 8 selected], replay := replay }
theorem test_meets_ReplaySelectsAndIssues :
    (replaying [.sync, .sync] .idle false).resetn = true ∧ (replaying [.sync, .sync] .idle false).readyNow = [] ∧
    (replaying [.sync, .sync] .idle false).queue = [recordOn 0 9 false] ++ recordOn 1 8 false :: [] ∧
    (replaying [.sync, .stale] (.waiting .demand) true).replay = .waiting .demand ∧
    (replaying [.sync, .stale] (.waiting .demand) true).queue = [recordOn 0 9 false] ++ recordOn 1 8 true :: [] ∧
    ∃ g ∈ (replaying [.sync, .sync] .idle false).region? 0, ∃ c ∈ g.cycle, (recordOn 1 8 false).line < c.lines.length := by
  decide
theorem test_meets_ReplaySelectsAndIssues_eligible :
    (replaying [.sync, .sync] .idle false).replayable (recordOn 1 8 false) ∧
    ¬ (replaying [.sync, .sync] .idle false).replayable (recordOn 0 9 false) := by
  simp only [← State.eligible_iff]
  decide
theorem test_replay_issues :
    (match (after .replaySelect (replaying [.sync, .sync] .idle false)).replay with
      | .issued k w => (k, w.addr, w.length)
      | .idle => (15, 0, 0)
      | .waiting _ => (15, 0, 0)) = (0, 0x2040, 1) := by decide

/-- The publish states a seal meets, and masks 0Fh and 10h. -/
theorem test_meets_SealsReach :
    (activeWith .opened [.sync, .dirty] 0 1).linkUp ∧ (0x0F : Byte).toNat < 16 ∧ 16 ≤ (0x10 : Byte).toNat ∧
    (∃ g ∈ (activeWith .opened [.sync, .dirty] 0 1).region? 0, g.life = .active ∧ (∃ d ∈ g.defn.double, d.group = 0) ∧
      ∃ c ∈ g.cycle, (activeWith .opened [.sync, .dirty] 0 1).readiness 0 c) ∧
    (∃ g ∈ (posted1 .opened).region? 0, ∃ c ∈ g.cycle, ¬ (posted1 .opened).readiness 0 c) ∧
    (∃ g ∈ (activeWith .draining [.sync, .sync] 0 0).region? 0, ∃ c ∈ g.cycle, c.pub = .draining) := by decide
theorem test_seal_then_epoch :
    (((after (.epochEdge .a) (after (.sealLineEdge 0) (activeWith .opened [.sync, .dirty] 0 1))).region? 0).bind
      fun (g : Region) => g.cycle.map fun c => (c.pub, c.gen, c.front, c.stale, c.lines)) =
      some (.opened, 8, .b, 1, [.sync, .copying]) := by decide

theorem test_meets_SealedEntryAndDrainEnd :
    (activeWith .sealWait [.sync, .dirty] 0 1).resetn = true ∧ (activeWith .sealWait [.sync, .dirty] 0 1).region? 1 = none ∧
    (∃ g ∈ (activeWith .sealWait [.sync, .dirty] 0 1).region? 0, ∃ c ∈ g.cycle, g.life = .active ∧ c.pub = .sealWait ∧
      (activeWith .sealWait [.sync, .dirty] 0 1).readiness 0 c) ∧
    (∃ g ∈ (activeWith .draining [.sync, .sync] 0 0).region? 0, ∃ c ∈ g.cycle, g.life = .active ∧ c.pub = .draining ∧
      c.readers c.front.other = 0 ∧ c.sealPending = false) ∧
    ∃ g ∈ (fencedWith 1).region? 0, ∃ c ∈ g.cycle, c.readers c.front.other ≠ 0 := by decide

/-- A RETIRING region with nothing in flight, and with a response not yet taken. -/
def retiring (txs : List Tx) : State :=
  { with0 (regionOf .retiring double2 (some (cycleOf .opened [.sync, .sync] 0 0))) with pTracker := txs }
theorem test_meets_ReturnToDefined :
    (retiring []).resetn = true ∧ (∃ g ∈ (retiring []).region? 0, g.life = .retiring) ∧
    (retiring []).nothingLeft 0 = true ∧ (retiring [txOf 0 (readAt 0) (.done .okay [1]) none]).nothingLeft 0 = false := by
  decide
theorem test_meets_ReturnToDefined_words : (retiring []).nothingInFlight 0 ∧
    ¬ (retiring [txOf 0 (readAt 0) (.done .okay [1]) none]).nothingInFlight 0 := by
  simp only [← State.nothingLeft_iff]
  decide

/-- Scores at the ends of HEALTHY and of WARNED. -/
theorem test_meets_EpochReaches :
    (∃ g ∈ (activeWith .isSealed [.sync, .dirty] 0 1).region? 0, g.life = .active ∧ g.defn.source = .a ∧
      (g.health = .healthy ∧ g.score < 96) ∧ ∃ c ∈ g.cycle, c.pub = .isSealed) ∧
    (∃ g ∈ (activeWith .sealWait [.stale, .dirty] 1 1).region? 0, ∃ c ∈ g.cycle, c.pub = .sealWait) ∧
    (∃ g ∈ (reading 96 .warned none).region? 0, g.health = .warned) ∧
    (∃ g ∈ (with0 (regionOf .active single10 none)).region? 0, g.defn.source = .b ∧ g.cycle = none) := by decide
theorem test_epoch_single_offset :
    (((after (.epochEdge .b) (with0 { regionOf .active single10 none with
      rot := some { offset := 5, staged := none, step := 1 } })).region? 0).bind fun (g : Region) => g.rot) =
      some { offset := 0, staged := none, step := 1 } := by decide

theorem test_meets_EpochWithoutEffect :
    (∃ g ∈ (fencedWith 1).region? 0, ∃ c ∈ g.cycle, c.pub = .halted) ∧
    (∃ g ∈ (retiring []).region? 0, g.life = .retiring ∧ g.cycle ≠ none) ∧
    (∃ g ∈ (activeWith .opened [.sync, .sync] 0 0).region? 0, ∃ c ∈ g.cycle, c.pub = .opened) ∧
    (fencedWith 1).resetn = true := by decide

theorem test_meets_ScanMapping :
    (∃ r ∈ (regionOf .active single10 none).defn.rotation, 1 ≤ r.body ∧
      r.head + r.body + r.tail = (regionOf .active single10 none).defn.size) ∧
    (∃ x ∈ (regionOf .active single10 none).rot, x.offset = 0) := by decide

theorem test_meets_HappeningsEnd : (work2 []).settle.slots[(3 : Fin 4)] = .free ∧
    (∃ g ∈ (fencedWith 1).settle.region? 0, g.life = .active) ∧ State.reset.settle.presented = none := by decide

theorem test_meets_Traffic :
    isTraffic (answered (some .writer)) (.responseTaken .p) ∧
    (after (.responseTaken .p) (answered (some .writer))).pTracker = [] ∧
    isTraffic (activeWith .opened [.sync, .sync] 0 0) (.requestAcceptance .p (readAt 0)) ∧
    isTraffic (activeWith .opened [.sync, .sync] 0 0) (.requestAcceptance .p (writeAt 0x40 0)) ∧
    ¬ isTraffic (activeWith .opened [.sync, .sync] 0 0) (.requestAcceptance .s (writeAt 0x40 0)) ∧
    isTraffic State.reset (.mResponse .okay []) := by
  refine ⟨trivial, ?_, ?_, ?_, ?_, rfl⟩ <;> decide

/-- A region that DEFINE makes, that UNDEFINE removes, that a hard reset removes. -/
theorem test_meets_Definitions :
    (after (.define 0 double2Params) State.reset).region? 0 = some (regionOf .defined double2 none) ∧
    (after (.undefine 0) (with0 (regionOf .defined double2 none))).region? 0 = none ∧
    (after .hardReset loaded).region? 0 = none := by decide

theorem test_meets_Generation :
    (activeWith .isSealed [.sync, .dirty] 0 1).wellPlaced ∧
    (∃ g ∈ (activeWith .isSealed [.sync, .dirty] 0 1).region? 0, g.cycle ≠ none) ∧
    ∃ g ∈ (after (.epochEdge .a) (activeWith .isSealed [.sync, .dirty] 0 1)).region? 0, ∃ c ∈ g.cycle, c.gen = 8 := by
  decide

theorem test_meets_SealedOnlyWhenReady :
    (∃ g ∈ (activeWith .opened [.sync, .dirty] 0 1).region? 0, ∃ c ∈ g.cycle, c.pub ≠ .isSealed) ∧
    ∃ g ∈ (after (.sealLineEdge 0) (activeWith .opened [.sync, .dirty] 0 1)).region? 0, ∃ c ∈ g.cycle, c.pub = .isSealed := by
  decide

/-- A state with a transaction, a copy, a waiting record and counts that meets every invariant and in which nothing is left to do;
a response is taken next. -/
def inOrder : State :=
  { with0 (regionOf .active double2 (some { cycleOf .opened [.copying, .dirty] 1 1 with readersB := 1 })) with
    pending := [.responseTaken .p]
    pTracker := [txOf 0 (readAt 0x40) (.done .okay [1]) (some (.reader .b))]
    queue := [recordOn 0 8 true], replay := .waiting .copying
    slots := (Vector.replicate 4 CopySlot.free).set 1 (.copying (copyOf 0 .read 1 false))
    outstanding := [outOf (.engine (.slot 1))] }
theorem test_meets_invariants : inOrder.countsAgree ∧ inOrder.inRange ∧ inOrder.wellPlaced ∧ inOrder.healthAgrees ∧
    inOrder.heldIsYoungest :=
  ⟨by decide, by decide, by decide, by decide, by decide⟩
theorem test_meets_invariants_copies : inOrder.copiesAgree := by
  have slot : ∀ j x, inOrder.copies j x → j = 1 ∧ x = copyOf 0 .read 1 false := by
    intro j x h
    fin_cases j
    · cases h
    · exact ⟨rfl, (CopySlot.copying.inj h).symm⟩
    · cases h
    · cases h
  refine ⟨?_, ?_, ?_, by decide⟩
  · intro j x h
    obtain ⟨rfl, rfl⟩ := slot j x h
    decide
  · intro j j' x x' h h' _ _
    rw [(slot j x h).1, (slot j' x' h').1]
  · intro k g hg c hc i hi
    have hk : ∀ k : SlotNo, k ≠ 0 → inOrder.region? k = none := by decide
    by_cases h0 : k = 0
    · subst h0
      cases hg
      cases hc
      refine ⟨1, _, rfl, rfl, ?_⟩
      match i, hi with
      | 0, _ => rfl
      | 1, hi => cases hi
      | n + 2, hi => cases hi
    · rw [hk k h0] at hg
      cases hg
theorem test_meets_invariants_counted : inOrder.transactionsCounted := by
  refine ⟨by decide, ?_, ?_⟩
  · intro t ht _
    exact ⟨0, by revert t; decide, _, rfl, rfl⟩
  · intro t ht reason age limit h
    have : ∀ t ∈ inOrder.pTracker, t.isHeld = false := by decide
    have := this t ht
    simp [Tx.isHeld, h] at this
theorem test_meets_invariants_blocks : inOrder.poolFits ∧ inOrder.regionsApart ∧ inOrder.heldAgrees ∧ inOrder.queueAgrees ∧
    inOrder.demandAgrees ∧ inOrder.sealedReady ∧ inOrder.requestsAgree ∧ inOrder.replyAgrees :=
  ⟨by decide, by decide, by decide, by decide, by decide, by decide, by decide, by decide⟩
theorem test_meets_invariants_replay : inOrder.replayAgrees := by
  simp only [State.replayAgrees, ← State.eligible_iff]
  decide
theorem test_meets_safe : inOrder.safe :=
  have ⟨counts, range, placed, health, held⟩ := test_meets_invariants
  have ⟨pool, apart, heldAgrees, queue, demand, ready, requests, reply⟩ := test_meets_invariants_blocks
  ⟨counts, range, placed, health, held, test_meets_invariants_copies, test_meets_invariants_counted, pool, apart, heldAgrees,
    queue, test_meets_invariants_replay, demand, ready, requests, reply⟩
theorem test_meets_restful : inOrder.restful := by
  simp only [State.restful, ← State.eligible_iff, ← State.isWork_iff, ← State.nothingLeft_iff]
  refine ⟨by decide, by decide, ?_, by decide, ?_, ?_, by decide, by decide, by decide, by decide⟩
  · have held : ∀ t ∈ inOrder.pTracker, t.heldFor = none := by decide
    intro t ht reason h
    simp [held t ht] at h
  · intro _ _ r hr _
    rw [List.mem_singleton.mp hr]
    exact ⟨_, rfl, _, rfl, .inl rfl⟩
  · intro _ k line
    have others : ∀ k : SlotNo, k ≠ 0 → inOrder.region? k = none := by decide
    by_cases h0 : k = 0
    · subst h0
      match line with
      | 0 => decide
      | 1 => decide
      | n + 2 => exact Bool.false_ne_true
    · simp [State.isWork, others k h0]
theorem test_meets_invariants_step : (match step inOrder with
    | .next t => decide (t.pTracker = [] ∧ t.pending = [])
    | .fault _ => false
    | .refused _ => false) = true := by decide

end Sys2Proof.Tests
end

section
/-! PROOFS. Acceptance of a request (R2, R5): what `exec` makes of an offered request, and the bursts that cross a line. -/

namespace Sys2Proof.Machine

theorem exec_requestAcceptance (s : State) (port : Port) (req : Request) :
    exec (.requestAcceptance port req) s = .next (s.requestAcceptance port req) := rfl

/-- The two ways an accepted request ends: an access answered at once ends there, and every other is followed by the rest of the
happening. -/
theorem State.requestAcceptance_of_canAccept {s : State} {port : Port} (h : s.canAccept port) (req : Request) :
    s.requestAcceptance port req =
      if (s.resolve port req).answered then s.accept port req (s.resolve port req)
      else (s.accept port req (s.resolve port req)).settle :=
  if_pos ((s.accepts_iff port).mpr h)

theorem Request_crossesLine_iff (req : Request) : req.crossesLine = true ↔ ¬ withinLine req := by
  rw [← Request_crossesLine_eq_false_iff, Bool.not_eq_false]

/-- The line boundary is the first check of Table 1-4: the regions, the guard and the policy are not looked at. -/
theorem State.resolve_of_crossing (s : State) (port : Port) {req : Request} (h : ¬ withinLine req) :
    s.resolve port req = .boundary :=
  if_pos ((Request_crossesLine_iff req).mpr h)

/-- Settles O25: resolution stops at its first check, and BOUNDARY is an answer at once, so no block acts after it. -/
theorem crossingBurstIsAnsweredBoundary : Obligations.CrossingBurstIsAnsweredBoundary := by
  intro s port req hAccept hCross
  have hResolve : s.resolve port req = .boundary := s.resolve_of_crossing port hCross
  have hAnswered : Resolution.boundary.answered = true := rfl
  rw [exec_requestAcceptance, State.requestAcceptance_of_canAccept hAccept, hResolve, if_pos hAnswered, State.accept]

end Sys2Proof.Machine
end

section
/-! PROOFS. UNDEFINE (R25): its two answers, and ATTN over the slots once a slot is FREE. -/

namespace Sys2Proof.Machine

variable (s : State)

/-! ### ATTN over the slots (R180) -/

theorem State.any_table_iff (p : Option Region → Bool) :
    s.table.toList.any p = true ↔ ∃ j, p (s.region? j) = true := by
  rw [Vector.any_toList, Vector.any_eq_true]
  exact (Fin.exists_iff (p := fun j => p (s.region? j) = true)).symm

theorem State.attn_iff :
    s.attn = true ↔ s.resetn = true ∧ (s.devConds &&& s.attnMask ≠ 0 ∨
      ∃ j, ∃ g ∈ s.region? j, g.conds &&& s.attnMask ≠ 0) := by
  rw [State.attn, Bool.and_eq_true, Bool.or_eq_true, bne_iff_ne, s.any_table_iff]
  refine and_congr_right' (or_congr_right (exists_congr fun j => ?_))
  cases s.region? j with
  | none => simp
  | some g => simp

/-- The records left when a slot is freed are those of the other slots. -/
theorem State.exists_region_putRegion_none (k : SlotNo) (p : Region → Prop) :
    (∃ j, ∃ g ∈ (s.putRegion k none).region? j, p g) ↔ ∃ j, j ≠ k ∧ ∃ g ∈ s.region? j, p g := by
  refine exists_congr fun j => ?_
  by_cases hj : j = k
  · simp [hj]
  · simp [hj, s.region?_putRegion_ne k j none hj]

/-- ATTN after a slot is freed: the conditions of every other slot count, those of the freed one do not. -/
theorem State.attn_freed_iff (h : s.resetn = true) (k : SlotNo) (n : Nat) (r : Result) (d : List Byte) :
    ((s.putRegion k none).answer n r d).attn = true ↔ (s.devConds &&& s.attnMask ≠ 0 ∨
      ∃ j, j ≠ k ∧ ∃ g ∈ s.region? j, g.conds &&& s.attnMask ≠ 0) := by
  simp only [State.attn_iff, State.answer_resetn, State.putRegion_resetn, State.answer_devConds, State.putRegion_devConds,
    State.answer_attnMask, State.putRegion_attnMask, State.answer_region?, State.exists_region_putRegion_none, h, true_and]

/-! ### The two answers of UNDEFINE -/

/-- A slot that is FREE, or whose record is not in the state the command asks, is answered BADSTATE. -/
theorem State.recordCommand_of_refused (n : Nat) (b : Byte) (k : SlotNo) (ok : Region → Bool)
    (f : SlotNo → Region → State) (h : s.linkUp) (hk : b.toNat = k.val) (hok : ∀ g ∈ s.region? k, ok g = false) :
    s.recordCommand n b ok f = s.answer n .badstate [] := by
  cases hg : s.region? k with
  | none => exact s.recordCommand_of_free n b k ok f h hk hg
  | some g => rw [s.recordCommand_of_some n b k ok f g h hk hg, hok g hg, if_neg Bool.false_ne_true]

theorem exec_undefine (slot : Byte) :
    exec (.undefine slot) s =
      .next (s.recordCommand 0 slot (·.life == .defined) fun k _ => (s.putRegion k none).answer 0 .ack []) := rfl

variable {s} {slot : Byte} {k : SlotNo}

theorem exec_undefine_of_defined {g : Region} (h : s.linkUp) (hk : slot.toNat = k.val) (hg : s.region? k = some g)
    (hLife : g.life = .defined) : exec (.undefine slot) s = .next ((s.putRegion k none).answer 0 .ack []) := by
  rw [exec_undefine, s.recordCommand_of_some 0 slot k _ _ g h hk hg, if_pos (beq_iff_eq.mpr hLife)]

theorem exec_undefine_of_not_defined (h : s.linkUp) (hk : slot.toNat = k.val)
    (hLife : ∀ g ∈ s.region? k, g.life ≠ .defined) : exec (.undefine slot) s = .next (s.answer 0 .badstate []) := by
  rw [exec_undefine, s.recordCommand_of_refused 0 slot k _ _ h hk fun g hg => beq_eq_false_iff_ne.mpr (hLife g hg)]

/-- Settles O11: the answers are those of a command on a record, and ATTN looks at the slots that still hold one. -/
theorem undefineFreesTheSlot : Obligations.UndefineFreesTheSlot := by
  intro s slot k hUp hk
  constructor
  · intro g hg hLife
    have hFreed : ((s.putRegion k none).answer 0 .ack []).region? k = none := s.region?_putRegion_self k none
    exact ⟨_, exec_undefine_of_defined hUp hk hg hLife, rfl, hFreed, s.attn_freed_iff hUp.1 k 0 .ack []⟩
  · exact exec_undefine_of_not_defined hUp hk

end Sys2Proof.Machine
end

section
/-! PROOFS. Epochs that leave a region as it is (R77, R82): the epoch before the rest of its happening, the records of regions that do
not take it, and the publish states in which a region that takes it does nothing. -/

namespace Sys2Proof.Machine

theorem exec_epochEdge_of_up {s : State} (h : s.resetn = true) (source : Source) :
    exec (.epochEdge source) s = .next (s.epoch source).settle :=
  congrArg Host.Outcome.next (if_pos h)

/-- An epoch writes nothing but the region table. -/
theorem State.epoch_eq_table (s : State) (source : Source) :
    s.epoch source = { s with table := (s.epoch source).table } := rfl

theorem State.region?_epoch_of_not_active {s : State} {k : SlotNo} {g : Region} (source : Source)
    (hg : s.region? k = some g) (hLife : g.life ≠ .active) : (s.epoch source).region? k = some g := by
  have hTake : ¬ (g.life == .active && g.defn.source == source) = true := by simp [hLife]
  rw [s.region?_epoch, hg, Option.map_some, if_neg hTake]

/-- A region on which an epoch does nothing keeps its record, whether it takes the epoch or not. -/
theorem State.region?_epoch_of_fixed {s : State} {k : SlotNo} {g : Region} (source : Source)
    (hg : s.region? k = some g) (hFix : g.epoch = g) : (s.epoch source).region? k = some g := by
  rw [s.region?_epoch, hg, Option.map_some, hFix, ite_self]

/-- The publish states in which a double region neither publishes nor misses an epoch (R82). -/
theorem Region.epoch_of_idle {g : Region} {c : Cycle} (hc : g.cycle = some c)
    (hPub : c.pub = .opened ∨ c.pub = .draining ∨ c.pub = .halted) : g.epoch = g := by
  obtain hOpen | hDrain | hHalt := hPub
  · simp only [Region.epoch, hc, hOpen]
  · simp only [Region.epoch, hc, hDrain]
  · simp only [Region.epoch, hc, hHalt]

/-- Settles O49: a RETIRING region does not take the epoch, and in the three publish states taking it does nothing. -/
theorem epochWithoutEffect : Obligations.EpochWithoutEffect := by
  intro s source hUp
  refine ⟨s.epoch source, exec_epochEdge_of_up hUp source, s.epoch_eq_table source, fun k g hg => ⟨?_, ?_⟩⟩
  · intro hRetiring
    have hLife : g.life ≠ .active := by simp [hRetiring]
    exact State.region?_epoch_of_not_active source hg hLife
  · intro c hc hPub
    exact State.region?_epoch_of_fixed source hg (Region.epoch_of_idle hc hPub)

end Sys2Proof.Machine
end

section
/-! PROOFS. The choice of the arbiter (R163): the five cases of the rule, what a grant sends for the chosen position, and what it makes
of the passed-over counts. -/

namespace Sys2Proof.Machine

/-! ### The five cases of the rule (R163) -/

section
variable {floor pPassed cPassed : Nat} {p engine s : Bool}

/-- A counted requester has no claim over the S path when it does not present or has not reached its floor. -/
theorem not_due_iff {presents : Bool} {passed : Nat} :
    ¬ (presents && floor - 1 ≤ passed) = true ↔ presents = false ∨ passed < floor - 1 := by
  rw [Bool.and_eq_true, decide_eq_true_eq, not_and_or, Bool.not_eq_true, Nat.not_le]

theorem chooseGrant_p_of_due (hp : p = true) (hDue : floor - 1 ≤ pPassed) :
    chooseGrant floor pPassed cPassed p engine s = some .p := by
  simp [chooseGrant, hp, hDue]

theorem chooseGrant_of_p_not_due (hp : p = false ∨ pPassed < floor - 1) :
    chooseGrant floor pPassed cPassed p engine s =
      if engine && floor - 1 ≤ cPassed then some .engine
      else if s then some .s else if p then some .p else if engine then some .engine else none :=
  if_neg (not_due_iff.mpr hp)

theorem chooseGrant_engine_of_due (hp : p = false ∨ pPassed < floor - 1) (he : engine = true) (hDue : floor - 1 ≤ cPassed) :
    chooseGrant floor pPassed cPassed p engine s = some .engine := by
  simp [chooseGrant_of_p_not_due hp, he, hDue]

/-- With neither counted requester at its floor the order is the S path, the P path, the copy engine. -/
theorem chooseGrant_of_none_due (hp : p = false ∨ pPassed < floor - 1) (he : engine = false ∨ cPassed < floor - 1) :
    chooseGrant floor pPassed cPassed p engine s =
      if s then some .s else if p then some .p else if engine then some .engine else none := by
  rw [chooseGrant_of_p_not_due hp]
  exact if_neg (not_due_iff.mpr he)

theorem exists_chooseGrant (h : p = true ∨ engine = true ∨ s = true) :
    ∃ x, chooseGrant floor pPassed cPassed p engine s = some x := by
  by_cases hp : (p && floor - 1 ≤ pPassed) = true
  · exact ⟨.p, if_pos hp⟩
  by_cases he : (engine && floor - 1 ≤ cPassed) = true
  · rw [chooseGrant_of_p_not_due (not_due_iff.mp hp)]
    exact ⟨.engine, if_pos he⟩
  rw [chooseGrant_of_none_due (not_due_iff.mp hp) (not_due_iff.mp he)]
  obtain rfl | rfl | rfl := h
  · cases s <;> exact ⟨_, rfl⟩
  · cases s <;> cases p <;> exact ⟨_, rfl⟩
  · exact ⟨_, rfl⟩

end

/-! ### What a grant sends (R158, R159) -/

/-- The entry of the outstanding list belongs to the position. -/
def Owner.isOf (o : Owner) : Position → Prop
  | .s => ∃ n, o = .port .s n
  | .p => ∃ n, o = .port .p n
  | .engine => ∃ e, o = .engine e

/-- The position presents something that can be sent. -/
def State.asks (s : State) : Position → Prop
  | .s => ∃ t, s.presents .s = some t
  | .p => ∃ t, s.presents .p = some t
  | .engine => ∃ e r, s.presented = some e ∧ s.engineRequest e = some r

variable {s : State} {x : Position}

theorem State.enginePresent_eq_presented (s : State) :
    s.enginePresent = { s with presented := s.enginePresent.presented } := by
  simp only [State.enginePresent]; split <;> rfl

@[simp] theorem State.enginePresent_outstanding (s : State) : s.enginePresent.outstanding = s.outstanding := by
  rw [s.enginePresent_eq_presented]

@[simp] theorem State.enginePresent_pPassed (s : State) : s.enginePresent.pPassed = s.pPassed := by
  rw [s.enginePresent_eq_presented]

@[simp] theorem State.enginePresent_cPassed (s : State) : s.enginePresent.cPassed = s.cPassed := by
  rw [s.enginePresent_eq_presented]

@[simp] theorem State.grantTx_outstanding (s : State) (port : Port) (t : Tx) :
    (s.grantTx port t).outstanding =
      s.outstanding ++ [{ owner := .port port t.place, kind := t.req.kind, length := t.req.length }] := by
  cases port <;> rfl

@[simp] theorem State.grantTx_pPassed (s : State) (port : Port) (t : Tx) : (s.grantTx port t).pPassed = s.pPassed := by
  cases port <;> rfl

@[simp] theorem State.grantTx_cPassed (s : State) (port : Port) (t : Tx) : (s.grantTx port t).cPassed = s.cPassed := by
  cases port <;> rfl

theorem State.grantEngine_of_request {e : EngineReq} {r : MRequest} (h : s.engineRequest e = some r) :
    s.grantEngine e = ((s.withdraw (· == e)).sendOut (.engine e) r).enginePresent := by
  simp only [State.grantEngine, h]

/-- A grant to a position that asks appends one entry, of that position, and leaves the passed-over counts to `countPassed`. -/
theorem State.grantTo_of_asks (h : s.asks x) :
    ∃ o : Outstanding, o.owner.isOf x ∧ (s.grantTo x).outstanding = s.outstanding ++ [o] ∧
      (s.grantTo x).pPassed = s.pPassed ∧ (s.grantTo x).cPassed = s.cPassed := by
  cases x with
  | s =>
    obtain ⟨t, ht⟩ := h
    simp only [State.grantTo, ht]
    exact ⟨_, ⟨_, rfl⟩, s.grantTx_outstanding .s t, s.grantTx_pPassed .s t, s.grantTx_cPassed .s t⟩
  | p =>
    obtain ⟨t, ht⟩ := h
    simp only [State.grantTo, ht]
    exact ⟨_, ⟨_, rfl⟩, s.grantTx_outstanding .p t, s.grantTx_pPassed .p t, s.grantTx_cPassed .p t⟩
  | engine =>
    obtain ⟨e, r, he, hr⟩ := h
    simp only [State.grantTo, he, State.grantEngine_of_request hr]
    exact ⟨{ owner := .engine e, kind := r.kind, length := r.length }, ⟨e, rfl⟩, by simp⟩

/-! ### A grant that can be taken (R162 to R164) -/

theorem exec_arbiterGrant_of_up (h : s.resetn = true) : exec .arbiterGrant s = .next s.grant :=
  congrArg Host.Outcome.next (if_pos h)

theorem State.grantee_of_free (hLen : s.outstanding.length < 8) (hWait : s.mRequest = none) :
    s.grantee =
      chooseGrant s.floor s.pPassed s.cPassed (s.presents .p).isSome s.presented.isSome (s.presents .s).isSome := by
  have hCan : s.canGrant = true := by simp [State.canGrant, Config.outstandingPlaces, hLen, hWait]
  exact if_pos hCan

theorem State.grant_of_grantee (h : s.grantee = some x) : s.grant = (s.countPassed x).grantTo x := by
  simp only [State.grant, h]

/-- Whom the arbiter grants asks, and still does once the counts have changed, as long as what the engine presents has a request. -/
theorem State.asks_of_grantee (h : s.grantee = some x) (hReq : ∀ e ∈ s.presented, s.engineRequest e ≠ none) :
    (s.countPassed x).asks x := by
  obtain ⟨-, -, hp, hs, he⟩ := State.grantee_presents s h
  cases x with
  | s => exact Option.isSome_iff_exists.mp (hs rfl)
  | p => exact Option.isSome_iff_exists.mp (hp rfl)
  | engine =>
    obtain ⟨e, hPres⟩ := Option.isSome_iff_exists.mp (he rfl)
    obtain ⟨r, hr⟩ := Option.ne_none_iff_exists'.mp (hReq e hPres)
    exact ⟨e, r, hPres, hr⟩

/-- A grant appends one entry, of the position it chose, and counts who was passed over. -/
theorem State.grant_sends (h : s.grantee = some x) (hReq : ∀ e ∈ s.presented, s.engineRequest e ≠ none) :
    ∃ o : Outstanding, o.owner.isOf x ∧ s.grant.outstanding = s.outstanding ++ [o] ∧
      s.grant.pPassed = passedOver s.pPassed (s.presents .p).isSome (x == .p) ∧
      s.grant.cPassed = passedOver s.cPassed s.presented.isSome (x == .engine) := by
  rw [State.grant_of_grantee h]
  exact State.grantTo_of_asks (State.asks_of_grantee h hReq)

/-- Settles O35: somebody is chosen, the entry sent is that of the chosen position, and each clause names the case of R163 that
chooses; after a grant to the P path the engine's count stands above its floor and that of the P path at 0. -/
theorem grantFollowsTheFloorRule : Obligations.GrantFollowsTheFloorRule := by
  intro s hUp hLen hWait hFloor hReq hSome
  obtain ⟨x, hx⟩ := exists_chooseGrant (floor := s.floor) (pPassed := s.pPassed) (cPassed := s.cPassed) hSome
  obtain ⟨o, hOwner, hOut, hP, hC⟩ := State.grant_sends ((State.grantee_of_free hLen hWait).trans hx) hReq
  have owner_of_choice : ∀ y, chooseGrant s.floor s.pPassed s.cPassed (s.presents .p).isSome s.presented.isSome
      (s.presents .s).isSome = some y → o.owner.isOf y := by
    intro y hy
    rwa [← Option.some.inj (hx.symm.trans hy)]
  refine ⟨s.grant, o, exec_arbiterGrant_of_up hUp, hOut, fun hpres hpDue => ⟨?_, ?_⟩, fun hpNot => ?_⟩
  · exact owner_of_choice .p (chooseGrant_p_of_due hpres hpDue)
  · intro hePres heDue
    obtain rfl : x = .p := Option.some.inj (hx.symm.trans (chooseGrant_p_of_due hpres hpDue))
    have hP0 : s.grant.pPassed = 0 := hP
    have hC1 : s.grant.cPassed = s.cPassed + 1 := by simp [hC, passedOver, hePres]
    have hpAfter : s.grant.pPassed < s.floor - 1 := by omega
    have heAfter : s.floor - 1 < s.grant.cPassed := by omega
    exact ⟨heAfter, hpAfter, fun p q => chooseGrant_engine_of_due (.inr hpAfter) rfl heAfter.le⟩
  · rw [← Option.isSome_eq_false_iff] at hpNot
    refine ⟨fun hePres heDue => owner_of_choice .engine (chooseGrant_engine_of_due hpNot hePres heDue), fun heNot => ?_⟩
    rw [← Option.isSome_eq_false_iff] at heNot
    rw [chooseGrant_of_none_due hpNot heNot] at owner_of_choice
    refine ⟨fun hsPres => ?_, fun hsNone hpPres => ?_, fun hsNone hpNone => ?_⟩
    · exact owner_of_choice .s (if_pos hsPres)
    · rw [← Option.isSome_eq_false_iff] at hsNone
      exact owner_of_choice .p (by simp [hsNone, hpPres])
    · rw [← Option.isSome_eq_false_iff] at hsNone hpNone
      have hePres : s.presented.isSome = true := by simpa [hsNone, hpNone] using hSome
      exact owner_of_choice .engine (by simp [hsNone, hpNone, hePres])

end Sys2Proof.Machine
end

section
/-! PROOFS. What a command can do to the state, said once: `State.Does` has a constructor for each effect, in the words of the model's
own operations, with the checks that went before it. Every invariant is proved over its constructors, and none of those proofs looks
into `exec` again. -/

namespace Sys2Proof.Machine

/-- The state after an answer of the link: only the reply, the counter of free values and the device conditions may be new. -/
def State.linked (s : State) (reply : Option Reply) (free : Nat) (conds : Kinds) : State :=
  { s with reply := reply, freeCount := free, devConds := conds }

/-- Everything a command can do. -/
inductive State.Does (s : State) : Instr → State → Prop
  | idle (i : Instr) : s.Does i s
  | link (i : Instr) (reply : Option Reply) (free : Nat) (conds : Kinds)
      (data : ∀ r ∈ reply, r.result ≠ .ack → r.data = []) : s.Does i (s.linked reply free conds)
  | answered (port : Port) (req : Request) (can : s.canAccept port) (now : (s.resolve port req).answered = true) :
      s.Does (.requestAcceptance port req) (s.accept port req (s.resolve port req))
  | accepted (port : Port) (req : Request) (can : s.canAccept port) (later : (s.resolve port req).answered = false) :
      s.Does (.requestAcceptance port req) (s.accept port req (s.resolve port req)).settle
  | taken (port : Port) (t : Tx) (rest : List Tx) (front : s.tracker port = t :: rest) :
      s.Does (.responseTaken port) ((s.setTracker port rest).leaveCount t).settle
  | holdRelease : s.Does .holdRelease s.holdRelease
  | advance : s.Does .timeBaseAdvance { s with timeBase := s.timeBase + 1 }.ageHold.holdExpiry
  | holdExpiry : s.Does .holdExpiry s.holdExpiry
  | grant : s.Does .arbiterGrant s.grant
  | memoryTakes : s.Does .memoryTakesRequest { s with mRequest := none }.settle
  | mResponse (status : MStatus) (data : List Word) (o : Outstanding) (rest : List Outstanding)
      (oldest : s.outstanding = o :: rest) :
      s.Does (.mResponse status data) ({ s with outstanding := rest }.handOver o.owner status data).settle
  | copyTake : s.Does .copyTake s.copyTake.commitReady
  | replaySelect : s.Does .replaySelect s.replaySelect.commitReady
  | replayIssue : s.Does .replayIssue s.replayIssue.commitReady
  | sealedEntry (k : SlotNo) : s.Does (.sealedEntry k) (s.modRegion k (·.sealedEntry s.queue k))
  | drainEnd (k : SlotNo) : s.Does (.drainEnd k) (s.modRegion k (·.drainEnd s.queue k))
  | returnToDefined (k : SlotNo) : s.Does (.returnToDefined k) (s.modRegion k (·.returnIf (s.nothingLeft k)))
  | sealLine (line : Fin 4) : s.Does (.sealLineEdge line) (s.sealGroups (· == line))
  | sealMask (b mask : Byte) :
      s.Does (.sealGroups b mask) ((s.sealGroups fun n => mask.getLsbD n.val).answer 1 .ack [])
  | epoch (source : Source) : s.Does (.epochEdge source) (s.epoch source).settle
  | define (b : Byte) (p : DefineParams) (k : SlotNo) (slot : b.toNat = k.val) (free : s.region? k = none)
      (valid : ValidDefinition p) :
      s.Does (.define b p) ((s.putRegion k (some (newRegion (definitionOf p)))).answer 26 .ack [])
  | undefine (b : Byte) (k : SlotNo) (g : Region) (slot : b.toNat = k.val) (found : s.region? k = some g)
      (life : g.life = .defined) : s.Does (.undefine b) ((s.putRegion k none).answer 0 .ack [])
  | activate (i : Instr) (matched : Bool) (k : SlotNo) (g : Region) (row : ∃ b, i = .activate b ∨ i = .activateMatched b)
      (found : s.region? k = some g) (life : g.life = .defined) (apart : ¬ s.clashing k g.defn)
      (pool : g.defn.double.isSome = true → s.poolUsed + g.defn.size ≤ 16384) :
      s.Does i ((s.putRegion k (some (g.activated matched))).answer 0 .ack []).settle
  | retire (b : Byte) (k : SlotNo) (g : Region) (found : s.region? k = some g) (life : g.life = .active) :
      s.Does (.retire b) ((s.retireRegion k).answer 0 .ack []).settle
  | revive (b : Byte) (k : SlotNo) (g : Region) (found : s.region? k = some g) (ok : g.revivable = true) :
      s.Does (.revive b) ((s.modRegion k Region.revived).answer 0 .ack []).settle
  | scroll (b : Byte) (v : BitVec 16) (k : SlotNo) (g : Region) (found : s.region? k = some g) (life : g.life ≠ .retiring)
      (below : g.belowBody v.toNat = true) : s.Does (.scroll b v) ((s.modRegion k (·.scrolled v.toNat)).answer 2 .ack [])
  | setStep (b : Byte) (v : BitVec 16) (k : SlotNo) (g : Region) (found : s.region? k = some g)
      (life : g.life ≠ .retiring) (below : g.belowBody v.toNat = true) :
      s.Does (.setStep b v)
        ((s.modRegion k fun g => { g with rot := g.rot.map fun x => { x with step := v.toNat } }).answer 2 .ack [])
  | clear (b : Byte) (mask : Kinds) (options : Byte) (k : SlotNo) (g : Region) (found : s.region? k = some g) :
      s.Does (.clear b mask options) ((s.modRegion k (·.cleared mask (asksCounters options))).answer 3 .ack [])
  | policy (b : Byte) (hold : BitVec 16) (floor unmatched : Byte) (mask : Kinds)
      (ok : policyOk hold floor unmatched mask = true) :
      s.Does (.policy b hold floor unmatched mask)
        ((s.setPolicy hold.toNat floor.toNat (unmatched == 0x01) mask).answer 6 .ack [])
  | softreset (b : Byte) : s.Does (.softreset b) (s.beginSoftReset.answer 0 .ack []).settle
  | softResetEnd : s.Does .softResetEnd s.softResetEnd
  | hardReset (i : Instr) (up : Bool) (row : i = .hardReset ∨ i = .hardResetRelease) : s.Does i (s.hardReset up)

variable {s t : State} {i : Instr}

/-! ### The common forms of a command -/

/-- An answer of the link is a `link` effect. -/
theorem State.Does.answer (i : Instr) (n : Nat) (r : Result) (d : List Byte) (h : r ≠ .ack → d = []) :
    s.Does i (s.answer n r d) :=
  .link i _ s.freeCount s.devConds (by simpa using h)

theorem State.Does.answerRead (i : Instr) (n : Nat) (d : List Byte) : s.Does i (s.answerRead n d) :=
  .link i _ _ s.devConds (by simp)

/-- What is done only while RESETn is high is done or leaves the state. -/
theorem State.Does.ifUp (f : State → State) (h : s.Does i (f s)) : s.Does i (s.ifUp f) := by
  simp only [State.ifUp]
  split
  · exact h
  · exact .idle i

theorem State.Does.slotCommand (n : Nat) (b : Byte) (f : SlotNo → State)
    (h : ∀ k : SlotNo, b.toNat = k.val → s.Does i (f k)) : s.Does i (s.slotCommand n b f) := by
  simp only [State.slotCommand]
  split
  · split
    · exact .answer i _ _ _ fun _ => rfl
    · split
      · exact h _ rfl
      · exact .answer i _ _ _ fun _ => rfl
  · exact .idle i

theorem State.Does.recordCommand (n : Nat) (b : Byte) (ok : Region → Bool) (f : SlotNo → Region → State)
    (h : ∀ k g, b.toNat = k.val → s.region? k = some g → ok g = true → s.Does i (f k g)) :
    s.Does i (s.recordCommand n b ok f) := by
  refine .slotCommand n b _ fun k hk => ?_
  split
  · split
    · exact h _ _ hk ‹_› ‹_›
    · exact .answer i _ _ _ fun _ => rfl
  · exact .answer i _ _ _ fun _ => rfl

theorem State.Does.deviceCommand (n : Nat) (t : State) (h : s.Does i t) : s.Does i (s.deviceCommand n t) := by
  simp only [State.deviceCommand]
  split
  · split
    · exact .answer i _ _ _ fun _ => rfl
    · exact h
  · exact .idle i

/-! ### The commands that need a word more -/

theorem State.Does.activation (b : Byte) (matched : Bool) (row : i = .activate b ∨ i = .activateMatched b) :
    s.Does i (s.activate b matched) := by
  refine .recordCommand 0 b _ _ fun k g _ hg hlife => ?_
  split
  · exact .answer i _ _ _ fun _ => rfl
  · rename_i hclash
    split
    · exact .answer i _ _ _ fun _ => rfl
    · rename_i hpool
      refine .activate i matched k g ⟨b, row⟩ hg (by simpa using hlife) ?_ ?_
      · rwa [← s.clashes_iff]
      · intro hd
        simpa [State.poolShort, hd, Config.poolEntries] using hpool

theorem State.Does.clearing (b : Byte) (mask : Kinds) (options : Byte) (h : exec (.clear b mask options) s = .next t) :
    s.Does (.clear b mask options) t := by
  cases h
  split
  · refine .deviceCommand 3 _ ?_
    simp only [State.clearDevice]
    split
    · exact .link _ _ s.freeCount _ (by simp)
    · exact .answer _ _ _ _ fun _ => rfl
  · refine .recordCommand 3 b _ _ fun k g _ hg _ => ?_
    split
    · exact .clear b mask options k g hg
    · exact .answer _ _ _ _ fun _ => rfl

theorem State.Does.acceptance (port : Port) (req : Request) :
    s.Does (.requestAcceptance port req) (s.requestAcceptance port req) := by
  by_cases h : s.canAccept port
  · rw [State.requestAcceptance_of_canAccept h]
    split
    · exact .answered port req h ‹_›
    · rename_i hnot
      exact .accepted port req h (Bool.eq_false_of_not_eq_true hnot)
  · rw [← s.accepts_iff] at h
    rw [State.requestAcceptance, if_neg h]
    exact .idle _

theorem State.Does.responseTaken (port : Port) : s.Does (.responseTaken port) (s.responseTaken port) := by
  simp only [State.responseTaken]
  split
  · cases hfront : s.tracker port with
    | nil =>
      have : s.offered port = none := by simp [State.offered, hfront]
      simp_all
    | cons x rest =>
      simpa only [State.complete, hfront] using State.Does.taken port x rest hfront
  · exact .idle _

theorem State.Does.memoryTakesRequest : s.Does .memoryTakesRequest s.memoryTakes := by
  simp only [State.memoryTakes]
  split
  · exact .memoryTakes
  · exact .idle _

theorem State.Does.response (status : MStatus) (data : List Word) :
    s.Does (.mResponse status data) (s.mResponse status data) := by
  simp only [State.mResponse]
  split
  · exact .idle _
  · exact .mResponse status data _ _ ‹_›

theorem State.Does.definition (b : Byte) (p : DefineParams) (h : exec (.define b p) s = .next t) :
    s.Does (.define b p) t := by
  cases h
  refine .slotCommand 26 b _ fun k hk => ?_
  split
  · exact .answer _ _ _ _ fun _ => rfl
  · split
    · exact .define b p k hk ‹_› ((defineOk_iff p).1 ‹_›)
    · exact .answer _ _ _ _ fun _ => rfl

theorem State.Does.probing (b : Byte) (line : BitVec 16) (h : exec (.probe b line) s = .next t) :
    s.Does (.probe b line) t := by
  cases h
  refine .recordCommand 2 b _ _ fun k g _ _ _ => ?_
  split
  · split
    · exact .answerRead _ _ _
    · exact .answer _ _ _ _ fun _ => rfl
  · exact .answer _ _ _ _ fun _ => rfl

/-! ### Every command -/

/-- Every command does one of the things of `State.Does`. -/
theorem State.does_of_exec (h : exec i s = .next t) : s.Does i t := by
  cases i with
  | requestAcceptance port req => cases h; exact .acceptance port req
  | responseTaken port => cases h; exact .responseTaken port
  | holdRelease => cases h; exact .ifUp _ .holdRelease
  | timeBaseAdvance => cases h; exact .ifUp _ .advance
  | holdExpiry => cases h; exact .ifUp _ .holdExpiry
  | arbiterGrant => cases h; exact .ifUp _ .grant
  | memoryTakesRequest => cases h; exact .ifUp _ .memoryTakesRequest
  | mResponse status data => cases h; exact .ifUp _ (.response status data)
  | copyTake => cases h; exact .ifUp _ .copyTake
  | replaySelect => cases h; exact .ifUp _ .replaySelect
  | replayIssue => cases h; exact .ifUp _ .replayIssue
  | sealedEntry k => cases h; exact .ifUp _ (.sealedEntry k)
  | drainEnd k => cases h; exact .ifUp _ (.drainEnd k)
  | returnToDefined k => cases h; exact .ifUp _ (.returnToDefined k)
  | sealLineEdge line => cases h; exact .ifUp _ (.sealLine line)
  | epochEdge source => cases h; exact .ifUp _ (.epoch source)
  | define b p => exact .definition b p h
  | readdef b => cases h; exact .recordCommand 0 b _ _ fun _ _ _ _ _ => .answerRead _ _ _
  | undefine b =>
    cases h
    exact .recordCommand 0 b _ _ fun k g hk hg hl => .undefine b k g hk hg (by simpa using hl)
  | activate b => cases h; exact .activation b false (.inl rfl)
  | activateMatched b => cases h; exact .activation b true (.inr rfl)
  | retire b =>
    cases h
    exact .recordCommand 0 b _ _ fun k g _ hg hl => .retire b k g hg (by simpa using hl)
  | revive b => cases h; exact .recordCommand 0 b _ _ fun k g _ hg hok => .revive b k g hg hok
  | sealGroups b mask =>
    cases h
    refine .deviceCommand 1 _ ?_
    split
    · exact .sealMask b mask
    · exact .answer _ _ _ _ fun _ => rfl
  | scroll b v =>
    cases h
    refine .recordCommand 2 b _ _ fun k g _ hg hl => ?_
    split
    · exact .scroll b v k g hg (by simpa using hl) ‹_›
    · exact .answer _ _ _ _ fun _ => rfl
  | setStep b v =>
    cases h
    refine .recordCommand 2 b _ _ fun k g _ hg hl => ?_
    split
    · exact .setStep b v k g hg (by simpa using hl) ‹_›
    · exact .answer _ _ _ _ fun _ => rfl
  | status b => cases h; exact .slotCommand 0 b _ fun _ _ => .answerRead _ _ _
  | probe b line => exact .probing b line h
  | clear b mask options => exact .clearing b mask options h
  | devstatus b =>
    cases h
    split
    · exact .answerRead _ _ _
    · exact .idle _
  | policy b hold floor unmatched mask =>
    cases h
    refine .deviceCommand 6 _ ?_
    split
    · exact .policy b hold floor unmatched mask ‹_›
    · exact .answer _ _ _ _ fun _ => rfl
  | softreset b => cases h; exact .deviceCommand 0 _ (.softreset b)
  | unknownCommand code b =>
    cases h
    split
    · exact .answer _ _ _ _ fun _ => rfl
    · exact .idle _
  | truncatedFrame bits =>
    cases h
    split
    · split
      · exact .link _ none s.freeCount _ (by simp)
      · split
        · exact .link _ none s.freeCount s.devConds (by simp)
        · exact .idle _
    · exact .idle _
  | softResetEnd => cases h; exact .ifUp _ .softResetEnd
  | hardReset => cases h; exact .hardReset _ false (.inl rfl)
  | hardResetRelease =>
    cases h
    split
    · exact .idle _
    · exact .hardReset _ true (.inr rfl)

/-- What every command keeps, and the queue of commands has no part in, every step keeps. -/
theorem step_keeps {P : State → Prop} (pending : ∀ s l, P s → P { s with pending := l })
    (does : ∀ s i t, P s → s.Does i t → P t) (h : P s) (hstep : step s = .next t) : P t := by
  simp only [step] at hstep
  split at hstep
  · cases hstep; exact h
  · exact does _ _ _ (pending _ _ h) (State.does_of_exec hstep)

/-- A step is an effect on the state with some queue of commands. -/
theorem State.does_of_step (h : step s = .next t) : ∃ rest i, State.Does { s with pending := rest } i t := by
  simp only [step] at h
  split at h
  · cases h; exact ⟨s.pending, .holdRelease, .idle _⟩
  · exact ⟨_, _, State.does_of_exec h⟩

end Sys2Proof.Machine
end

section
/-! PROOFS. What happens to one region record. Each act of the blocks and each command changes the record of a slot in one of a few
named ways; a fact that every one of them keeps is kept by every command, whatever else the command does to the state. -/

namespace Sys2Proof.Machine

open Relation

/-! ### The ways a record changes -/

/-- What the acts of the blocks make of a record in the rest of a happening. -/
inductive Region.Acted : Region → Region → Prop
  | dirtied (g : Region) (i : Nat) : Acted g (g.modCycle (·.setLine i .dirty))
  | taken (g : Region) (c : Cycle) (i : Nat) (life : g.life = .active) (has : g.cycle = some c)
      (pub : c.pub = .opened ∨ c.pub = .sealWait) (stale : c.lines[i]? = some .stale) :
      Acted g (g.modCycle (·.setLine i .copying))
  | entered (g : Region) (e : CountEntry) : Acted g (g.modCycle (·.enter e))
  | drained (g : Region) (queue : List QRecord) (k : SlotNo) : Acted g (g.drainEnd queue k)
  | sealed (g : Region) (queue : List QRecord) (k : SlotNo) : Acted g (g.sealedEntry queue k)
  | returned (g : Region) (life : g.life = .retiring) : Acted g g.returned

/-- What requests, responses and the acts of the blocks make of a record. -/
inductive Region.Carried : Region → Region → Prop
  | acted {g g' : Region} (h : Acted g g') : Carried g g'
  | left (g : Region) (e : CountEntry) : Carried g (g.modCycle (·.leave e))
  | lined (g : Region) (i : Nat) (l : LineState) : Carried g (g.modCycle (·.setLine i l))

/-- What any command but an activation and an epoch makes of a record that stays in its slot; a fence and a retire record at most
`m` discarded records. -/
inductive Region.Changed (m : Nat) : Region → Region → Prop
  | carried {g g' : Region} (h : Carried g g') : Changed m g g'
  | refused (g : Region) : Changed m g g.countRefused
  | timedOut (g : Region) : Changed m g g.countTimeout
  | reported (g : Region) : Changed m g g.afterReport
  | fenced (g : Region) (n : Nat) (le : n ≤ m) (cycle : g.cycle.isSome = true) (life : g.life ≠ .defined) : Changed m g (g.fenced n)
  | seals (g : Region) (queue : List QRecord) (k : SlotNo) : Changed m g (g.modCycle (·.takeSeal queue k))
  | retired (g : Region) (n : Nat) (le : n ≤ m) (life : g.life = .active) :
      Changed m g (({ g with life := .retiring } : Region).recordDiscard n)
  | revived (g : Region) (ok : g.revivable = true) : Changed m g g.revived
  | scrolled (g : Region) (v : Nat) (below : g.belowBody v = true) : Changed m g (g.scrolled v)
  | stepped (g : Region) (v : Nat) (below : g.belowBody v = true) :
      Changed m g { g with rot := g.rot.map fun x => { x with step := v } }
  | cleared (g : Region) (mask : Kinds) (counters : Bool) : Changed m g (g.cleared mask counters)
  | reset (g : Region) : Changed m g g.softReset

/-! ### Two states, record by record -/

/-- Both slots are FREE, or hold records in this relation. -/
inductive recordsIn (r : Region → Region → Prop) : Option Region → Option Region → Prop
  | free : recordsIn r none none
  | held {g g' : Region} (h : r g g') : recordsIn r (some g) (some g')

/-- Slot by slot, the records of `t` come from those of `s` by this relation. -/
def State.records (r : Region → Region → Prop) (s t : State) : Prop := ∀ k, recordsIn r (s.region? k) (t.region? k)

variable {r : Region → Region → Prop} {s t u : State} {m : Nat}

theorem recordsIn.refl (hr : ∀ g, r g g) (x : Option Region) : recordsIn r x x := by
  cases x with
  | none => exact .free
  | some g => exact .held (hr g)

theorem recordsIn.trans (hr : ∀ {a b c}, r a b → r b c → r a c) {x y z : Option Region} (h : recordsIn r x y)
    (h' : recordsIn r y z) : recordsIn r x z := by
  cases h with
  | free => exact h'
  | held h => cases h' with | held h' => exact .held (hr h h')

theorem recordsIn.map {x : Option Region} {f : Region → Region} (h : ∀ g ∈ x, r g (f g)) : recordsIn r x (x.map f) := by
  cases x with
  | none => exact .free
  | some g => exact .held (h g rfl)

theorem recordsIn.mono {r' : Region → Region → Prop} (hr : ∀ {a b}, r a b → r' a b) {x y : Option Region}
    (h : recordsIn r x y) : recordsIn r' x y := by
  cases h with
  | free => exact .free
  | held h => exact .held (hr h)

theorem recordsIn.exists_of_some {x y : Option Region} (h : recordsIn r x y) {g : Region} (hg : x = some g) :
    ∃ g', y = some g' ∧ r g g' := by
  cases h with
  | free => cases hg
  | held h => cases hg; exact ⟨_, rfl, h⟩

theorem recordsIn.exists_of_some_right {x y : Option Region} (h : recordsIn r x y) {g' : Region} (hg : y = some g') :
    ∃ g, x = some g ∧ r g g' := by
  cases h with
  | free => cases hg
  | held h => cases hg; exact ⟨_, rfl, h⟩

theorem recordsIn.eq_none {x y : Option Region} (h : recordsIn r x y) (hx : x = none) : y = none := by
  cases h with
  | free => rfl
  | held h => cases hx

theorem State.records.mono {r' : Region → Region → Prop} (hr : ∀ {a b}, r a b → r' a b) (h : State.records r s t) :
    State.records r' s t := fun k => (h k).mono hr

/-- A state with the same table has the same records. -/
theorem State.records.of_table (hr : ∀ g, r g g) (h : t.table = s.table) : State.records r s t := by
  intro k
  have : t.region? k = s.region? k := by simp [State.region?, h]
  rw [this]
  exact .refl hr _

theorem State.records.mapRegions (s : State) (f : SlotNo → Region → Region) (h : ∀ k, ∀ g ∈ s.region? k, r g (f k g)) :
    State.records r s (s.mapRegions f) := by
  intro k
  rw [s.region?_mapRegions]
  exact .map (h k)

theorem State.records.modRegion (hr : ∀ g, r g g) (s : State) (k : SlotNo) (f : Region → Region)
    (h : ∀ g ∈ s.region? k, r g (f g)) : State.records r s (s.modRegion k f) := by
  intro j
  rw [s.region?_modRegion]
  split
  · subst j; exact .map h
  · exact .refl hr _

/-- Chains of changes from `s` to `t`, record by record. -/
def State.chains (r : Region → Region → Prop) (s t : State) : Prop := State.records (ReflTransGen r) s t

theorem State.chains.refl (s : State) : State.chains r s s := fun _ => .refl (fun _ => .refl) _

theorem State.chains.trans (h : State.chains r s t) (h' : State.chains r t u) : State.chains r s u :=
  fun k => (h k).trans ReflTransGen.trans (h' k)

theorem State.chains.of_table (h : t.table = s.table) : State.chains r s t :=
  State.records.of_table (fun _ => .refl) h

theorem State.chains.behind (h : State.chains r u t) (hu : u.table = s.table) : State.chains r s t :=
  (State.chains.of_table hu).trans h

theorem State.chains.mapRegions (s : State) (f : SlotNo → Region → Region) (h : ∀ k, ∀ g ∈ s.region? k, ReflTransGen r g (f k g)) :
    State.chains r s (s.mapRegions f) := State.records.mapRegions s f h

theorem State.chains.modRegion (s : State) (k : SlotNo) (f : Region → Region) (h : ∀ g ∈ s.region? k, r g (f g)) :
    State.chains r s (s.modRegion k f) := State.records.modRegion (fun _ => .refl) s k f fun g hg => .single (h g hg)

theorem State.chains.putRegion (s : State) {k : SlotNo} {g g' : Region} (hg : s.region? k = some g) (h : r g g') :
    State.chains r s (s.putRegion k (some g')) := by
  rw [← s.modRegion_of_some k (fun _ => g') g hg]
  exact .modRegion s k _ fun x hx => by rw [hg] at hx; cases hx; exact h

theorem State.chains.mono {r' : Region → Region → Prop} (hr : ∀ {a b}, r a b → r' a b) (h : State.chains r s t) :
    State.chains r' s t := State.records.mono (ReflTransGen.mono (fun _ _ => hr) _ _) h

theorem State.chains.exists_of_some (h : State.chains r s t) {k : SlotNo} {g : Region} (hg : s.region? k = some g) :
    ∃ g', t.region? k = some g' ∧ ReflTransGen r g g' := (h k).exists_of_some hg

theorem State.chains.exists_of_some_right (h : State.chains r s t) {k : SlotNo} {g' : Region} (hg : t.region? k = some g') :
    ∃ g, s.region? k = some g ∧ ReflTransGen r g g' := (h k).exists_of_some_right hg

theorem State.chains.region?_eq_none (h : State.chains r s t) {k : SlotNo} (hk : s.region? k = none) : t.region? k = none :=
  (h k).eq_none hk

/-- A property that one change keeps, a chain keeps. -/
theorem keeps_of_chain {P : Region → Prop} (h : ∀ {g g'}, r g g' → P g → P g') {g g' : Region} (hc : ReflTransGen r g g')
    (hP : P g) : P g' := by
  induction hc with
  | refl => exact hP
  | tail _ hstep ih => exact h hstep ih

/-- What each record has, and one change keeps, each record has after a chain of changes. -/
theorem State.chains.keeps {P : SlotNo → Region → Prop} (h : State.chains r s t) (hr : ∀ k {g g'}, r g g' → P k g → P k g')
    (hs : ∀ k, ∀ g ∈ s.region? k, P k g) : ∀ k, ∀ g ∈ t.region? k, P k g := by
  intro k g' hg'
  obtain ⟨g, hg, hc⟩ := h.exists_of_some_right hg'
  exact keeps_of_chain (P := P k) (hr k) hc (hs k g hg)

/-! ### The acts of the blocks -/

/-- The acts change records in the ways of `Region.Acted` only. -/
theorem State.chains_controllers (s : State) : State.chains Region.Acted s s.controllers :=
  .mapRegions s _ fun k g _ => .tail (.single (.drained g s.queue k)) (.sealed _ s.queue k)

theorem State.chains_modHeld (s : State) (f : Tx → Tx) : State.chains r s (s.modHeld f) := .of_table rfl

theorem State.chains_holdRelease (s : State) : State.chains Region.Acted s s.holdRelease := by
  rcases s.holdRelease_cases with h | ⟨t, k, g, c, _, _, _, -, -, -, -, -, ⟨-, -, h⟩ | ⟨-, -, h⟩ | ⟨-, -, bank, -, h⟩⟩ <;> rw [h]
  · exact .refl s
  · exact (State.chains.modRegion s k _ fun g _ => .dirtied g _).trans (State.chains_modHeld _ _)
  · exact .of_table rfl
  · exact (State.chains.modRegion s k _ fun g _ => .entered g _).trans (State.chains_modHeld _ _)

theorem State.joinDemand_table (s : State) (who : Requester) (k : SlotNo) (line : Nat) :
    (s.joinDemand who k line).table = s.table := by
  simp only [State.joinDemand]; split <;> rfl

theorem State.chains_replayDecide (s : State) (x : QRecord) : State.chains Region.Acted s (s.replayDecide x) := by
  rcases s.replayDecide_cases x with ⟨-, h⟩ | ⟨g, c, -, -, ⟨-, h⟩ | ⟨-, -, h⟩ | ⟨-, -, ⟨-, h⟩ | ⟨-, h⟩⟩⟩ <;> rw [h]
  · exact .refl s
  · exact .of_table rfl
  · exact .of_table (s.joinDemand_table _ _ _)
  · exact .of_table rfl
  · have issue : State.chains Region.Acted s
        (({ s with replay := .issued x.region (replayWrite x g.defn c) }.undemand x.region x.line).modCycle x.region
          (·.setLine x.line .dirty)) :=
      (State.chains.modRegion _ _ _ fun g _ => .dirtied g _).behind rfl
    exact issue.trans (.of_table rfl)

theorem State.chains_replaySelect (s : State) : State.chains Region.Acted s s.replaySelect := by
  rcases s.replaySelect_cases with h | ⟨x, -, -, -, h⟩ <;> rw [h]
  · exact .refl s
  · exact (State.chains_replayDecide _ x).behind rfl

theorem State.chains_replayIssue (s : State) : State.chains Region.Acted s s.replayIssue := by
  rcases s.replayIssue_cases with h | ⟨x, -, -, -, h⟩ <;> rw [h]
  · exact .refl s
  · exact s.chains_replayDecide x

theorem State.takeLine_table (s : State) (j : Fin 4) {k : SlotNo} {line : Nat} {g : Region} {c : Cycle}
    (hg : s.region? k = some g) (hc : g.cycle = some c) (hl : c.lines[line]? = some .stale) :
    (s.takeLine j k line).table = (s.modCycle k (·.setLine line .copying)).table := by
  have hset : c.setLine line .copying = { c with lines := c.lines.set line .copying } := by
    simp [c.setLine_of_some line _ _ hl, LineState.staleUnit, LineState.dirtyUnit]
  rw [s.takeLine_of_work j hg hc hl, s.modCycle_of_some k _ g c hg hc, hset]
  rfl

theorem State.chains_copyTake (s : State) : State.chains Region.Acted s s.copyTake := by
  rcases s.copyTake_cases with h | ⟨j, k, line, ptr, -, -, hw, h⟩ <;> rw [h]
  · exact .refl s
  · obtain ⟨g, c, hg, hlife, hc, hpub, hl⟩ := s.region_of_isWork hw
    have take : State.chains Region.Acted s ({ s with rrPtr := ptr }.modCycle k (·.setLine line .copying)) :=
      .modRegion s k _ fun g' hg' => by
        obtain rfl : g = g' := by simpa [hg] using hg'
        exact .taken g c line hlife hc hpub hl
    exact take.trans (.of_table (State.takeLine_table { s with rrPtr := ptr } j hg hc hl))

theorem State.enginePresent_table (s : State) : s.enginePresent.table = s.table := by rw [s.enginePresent_eq_presented]

theorem State.grantTx_table (s : State) (port : Port) (x : Tx) : (s.grantTx port x).table = s.table := by
  cases port <;> rfl

theorem State.grantEngine_table (s : State) (e : EngineReq) : (s.grantEngine e).table = s.table := by
  simp only [State.grantEngine]
  split
  · exact State.enginePresent_table _
  · rfl

theorem State.grant_table (s : State) : s.grant.table = s.table := by
  rcases s.grant_cases with h | ⟨port, x, -, -, h⟩ | ⟨e, -, -, h⟩ | ⟨x, -, h⟩ <;> rw [h]
  · exact State.grantTx_table _ _ _
  · exact State.grantEngine_table _ _
  · rfl

theorem Region.acted_returnIf (g : Region) (b : Bool) : ReflTransGen Region.Acted g (g.returnIf b) := by
  simp only [Region.returnIf]
  split
  · exact .single (.returned g (by simp_all))
  · exact .refl

theorem State.chains_returns (s : State) : State.chains Region.Acted s s.returns :=
  .mapRegions s _ fun _ g _ => g.acted_returnIf _

theorem State.softResetEnd_table (s : State) : s.softResetEnd.table = s.table := by
  simp only [State.softResetEnd]; split <;> rfl

/-- The rest of a happening changes records in the ways of `Region.Acted` only. -/
theorem State.chains_settle (s : State) : State.chains Region.Acted s s.settle :=
  State.settle_induction s (P := State.chains Region.Acted s) (fun t h => h.trans t.chains_controllers)
    (fun t h => h.trans t.chains_holdRelease) (fun t h => h.trans t.chains_replaySelect)
    (fun t h => h.trans t.chains_replayIssue) (fun t h => h.trans t.chains_copyTake)
    (fun t h => h.trans (.of_table t.enginePresent_table)) (fun t h => h.trans (.of_table t.grant_table))
    (fun t h => h.trans t.chains_returns) (fun t h => h.trans (.of_table t.softResetEnd_table))
    (fun _ h => h.trans (.of_table rfl)) (.refl s)

/-! ### Requests and responses -/

theorem State.setTracker_table (s : State) (port : Port) (l : List Tx) : (s.setTracker port l).table = s.table := by
  cases port <;> rfl

theorem State.addTx_table (s : State) (port : Port) (req : Request) (region : Option SlotNo) (bank : Option Bank)
    (phys : Option Nat) (state : TxState) (count : Option CountEntry) :
    (s.addTx port req region bank phys state count).table = s.table := s.setTracker_table port _

theorem State.chains_enterCount (s : State) (k : SlotNo) (e : Option CountEntry) :
    State.chains Region.Acted s (s.enterCount k e) := by
  cases e with
  | none => exact .refl s
  | some e => exact .modRegion s k _ fun g _ => .entered g e

/-- What acceptance does to records, but for a refused write (R9, R10). -/
theorem State.chains_accept (s : State) (port : Port) (req : Request) (res : Resolution) (hres : ∀ k, res ≠ .refused k) :
    State.chains Region.Acted s (s.accept port req res) := by
  cases res with
  | refused k => exact absurd rfl (hres k)
  | issue k bank phys count => exact (State.chains_enterCount _ k count).behind (s.addTx_table ..)
  | draftWrite k bank phys line =>
    have write : State.chains Region.Acted
        ((s.addTx port req (some k) (some bank) (some phys) .accepted (some .writer)).undemand k line)
        (s.accept port req (.draftWrite k bank phys line)) :=
      State.records.modRegion (fun _ => .refl) _ k _ fun g _ => by
        have : g.modCycle (fun c => (c.setLine line .dirty).enter .writer) =
            (g.modCycle (·.setLine line .dirty)).modCycle (·.enter .writer) := by
          simp [Region.modCycle, Function.comp_def]
        rw [this]
        exact .tail (.single (.dirtied g line)) (.entered _ .writer)
    exact (State.chains.of_table (s.addTx_table ..)).trans write
  | holdWrite k reason bank line =>
    have enter : State.chains Region.Acted s
        ((s.addTx port req (some k) (some bank) none (s.newHold reason) (some .writer)).modCycle k (·.enter .writer)) :=
      (State.chains.modRegion _ k _ fun g _ => .entered g .writer).behind (s.addTx_table ..)
    simp only [State.accept]
    split
    · exact enter.trans (.of_table (State.joinDemand_table _ _ _ _))
    · exact enter
  | posted k record => exact .of_table (State.addTx_table { s with queue := s.queue ++ [record] } ..)
  | _ => exact .of_table (s.addTx_table ..)

theorem State.chains_accept_refused (s : State) (port : Port) (req : Request) (k : SlotNo) :
    State.chains (Region.Changed m) s (s.accept port req (.refused k)) :=
  (State.chains.modRegion _ k _ fun g _ => .refused g).behind (s.addTx_table ..)

theorem State.chains_leaveCount (s : State) (x : Tx) : State.chains Region.Carried s (s.leaveCount x) := by
  simp only [State.leaveCount]
  split
  · exact .modRegion s _ _ fun g _ => .left g _
  · exact .refl s

theorem State.chains_lined (s : State) (k : SlotNo) (i : Nat) (l : LineState) :
    State.chains Region.Carried s (s.modCycle k (·.setLine i l)) := .modRegion s k _ fun g _ => .lined g i l

/-! ### Memory errors -/

theorem State.unissuedRecords_le (s : State) (k : SlotNo) : s.unissuedRecords k ≤ s.queue.length := List.countP_le_length

theorem State.fence_table (s : State) (k : SlotNo) :
    (s.fence k).table = (s.modRegion k (·.fenced (s.unissuedRecords k))).table := rfl

theorem State.chains_fence (s : State) (hm : s.queue.length ≤ m) (k : SlotNo) (h : ∀ g ∈ s.region? k, g.cycle.isSome = true ∧ g.life ≠ .defined) :
    State.chains (Region.Changed m) s (s.fence k) :=
  (State.chains.modRegion s k _ fun g hg =>
    .fenced g _ ((s.unissuedRecords_le k).trans hm) (h g hg).1 (h g hg).2).trans (.of_table (s.fence_table k))

theorem Region.afterReport_keeps (g : Region) : g.afterReport.life = g.life ∧ g.afterReport.defn = g.defn ∧
    g.afterReport.cycle = g.cycle ∧ g.afterReport.rot = g.rot := by
  simp only [Region.afterReport]
  split <;> exact ⟨rfl, rfl, rfl, rfl⟩

theorem State.chains_reportError (s : State) (hm : s.queue.length ≤ m) (k : SlotNo) (third : Bool) :
    State.chains (Region.Changed m) s (s.reportError k third) := by
  rcases s.reportError_cases k third with ⟨-, h⟩ | ⟨g, hg, ⟨h, -⟩ | ⟨h, -, hcycle, hlife, -⟩⟩ <;> rw [h]
  · exact .refl s
  · exact .putRegion s hg (.reported g)
  · obtain ⟨hl, -, hc, -⟩ := g.afterReport_keeps
    refine (State.chains.putRegion s hg (.reported g)).trans (State.chains_fence _ (by exact hm) k fun g' hg' => ?_)
    obtain rfl : g.afterReport = g' := by simpa using hg'
    exact ⟨hc ▸ hcycle, hl ▸ hlife⟩

/-! ### M responses -/

theorem State.chains_portResponse_okay (s : State) (port : Port) (place : Nat) (data : List Word) :
    State.chains r s (s.portResponse port place .okay data) := by
  simp only [State.portResponse]
  split
  · exact .refl s
  · exact .of_table (s.setTracker_table port _)

theorem State.chains_portResponse (s : State) (hm : s.queue.length ≤ m) (port : Port) (place : Nat) (status : MStatus) (data : List Word) :
    State.chains (Region.Changed m) s (s.portResponse port place status data) := by
  cases status with
  | okay => exact s.chains_portResponse_okay port place data
  | error =>
    simp only [State.portResponse, State.upstreamError]
    split
    · exact .refl s
    · split
      · exact (State.chains_reportError _ (by cases port <;> exact hm) _ _).behind (s.setTracker_table port _)
      · exact .of_table (s.setTracker_table port _)

theorem State.chains_slotResponse_okay (s : State) (j : Fin 4) (data : List Word) :
    State.chains Region.Carried s (s.slotResponse j .okay data) := by
  simp only [State.slotResponse]
  split
  · exact .refl s
  · exact .of_table rfl
  · rename_i c _
    split
    · exact (State.chains_lined (s.setSlot j .free) c.region c.line .stale).behind rfl
    · cases c.phase with
      | read => exact .of_table rfl
      | write => exact (State.chains_lined (s.setSlot j .free) c.region c.line .sync).behind rfl

theorem State.chains_slotResponse (s : State) (hm : s.queue.length ≤ m) (j : Fin 4) (status : MStatus) (data : List Word) :
    State.chains (Region.Changed m) s (s.slotResponse j status data) := by
  cases status with
  | okay => exact (s.chains_slotResponse_okay j data).mono .carried
  | error =>
    simp only [State.slotResponse]
    split
    · exact .refl s
    · exact .of_table rfl
    · rename_i c _
      split
      · exact ((State.chains_lined (s.setSlot j .free) c.region c.line .stale).behind rfl).mono .carried
      · simp only [State.copyError]
        refine (s.chains_reportError hm c.region (Config.copyAttempts ≤ c.attempt)).trans ?_
        split
        · exact .of_table rfl
        · exact .refl _
        · exact .refl _

theorem State.chains_replayResponse_okay (s : State) : State.chains r s (s.replayResponse .okay) := by
  simp only [State.replayResponse]
  split
  · exact .refl s
  · exact .refl s
  · split <;> exact .of_table rfl

theorem State.chains_replayResponse (s : State) (hm : s.queue.length ≤ m) (status : MStatus) :
    State.chains (Region.Changed m) s (s.replayResponse status) := by
  cases status with
  | okay => exact s.chains_replayResponse_okay
  | error =>
    simp only [State.replayResponse]
    split
    · exact .refl s
    · exact .refl s
    · split
      · exact (State.chains_reportError _ ((List.length_filter_le _ _).trans hm) _ _).behind rfl
      · exact .of_table rfl

theorem State.chains_handOver (s : State) (hm : s.queue.length ≤ m) (o : Owner) (status : MStatus) (data : List Word) :
    State.chains (Region.Changed m) s (s.handOver o status data) := by
  cases o with
  | port port place => exact s.chains_portResponse hm port place status data
  | engine e =>
    cases e with
    | replay => exact s.chains_replayResponse hm status
    | slot j => exact s.chains_slotResponse hm j status data

theorem State.chains_handOver_okay (s : State) (o : Owner) (data : List Word) :
    State.chains Region.Carried s (s.handOver o .okay data) := by
  cases o with
  | port port place => exact s.chains_portResponse_okay port place data
  | engine e =>
    cases e with
    | replay => exact s.chains_replayResponse_okay
    | slot j => exact s.chains_slotResponse_okay j data

/-! ### Other commands -/

theorem State.chains_holdExpiry (s : State) : State.chains (Region.Changed m) s s.holdExpiry := by
  simp only [State.holdExpiry]
  split
  · exact .refl s
  · split
    · split
      · exact (s.chains_modHeld _).trans (.modRegion _ _ _ fun g _ => .timedOut g)
      · exact s.chains_modHeld _
    · exact .refl s

theorem State.chains_advance (s : State) :
    State.chains (Region.Changed m) s { s with timeBase := s.timeBase + 1 }.ageHold.holdExpiry :=
  have aged : ({ s with timeBase := s.timeBase + 1 } : State).ageHold.table = s.table := rfl
  (State.chains_holdExpiry _).behind aged

theorem State.retireRegion_table (s : State) (k : SlotNo) : (s.retireRegion k).table =
    (s.modRegion k fun g => { g with life := .retiring }.recordDiscard (s.unissuedRecords k)).table := rfl

theorem State.sealGroups_chains (s : State) (groups : Fin 4 → Bool) :
    State.chains (Region.Changed m) s (s.sealGroups groups) :=
  .mapRegions s _ fun k g _ => by
    split
    · exact .single (.seals g s.queue k)
    · exact .refl

theorem State.beginSoftReset_chains (s : State) : State.chains (Region.Changed m) s s.beginSoftReset :=
  State.chains.behind (State.chains.mapRegions s (fun _ => Region.softReset) fun _ g _ => .single (.reset g)) rfl

theorem State.hardReset_region? (s : State) (up : Bool) (k : SlotNo) : (s.hardReset up).region? k = none := by
  simp [State.region?, State.hardReset, State.reset]

/-! ### Every command, record by record -/

/-- What a command does to the region table. -/
inductive State.Recorded (s : State) (i : Instr) (t : State) : Prop
  | changed (chains : State.chains (Region.Changed s.queue.length) s t)
  | epoch (source : Source) (row : i = .epochEdge source) (result : t = (s.epoch source).settle)
  | defined (b : Byte) (p : DefineParams) (k : SlotNo) (row : i = .define b p) (slot : b.toNat = k.val)
      (free : s.region? k = none) (valid : ValidDefinition p)
      (table : t.table = (s.putRegion k (some (newRegion (definitionOf p)))).table)
  | undefined (b : Byte) (k : SlotNo) (g : Region) (row : i = .undefine b) (slot : b.toNat = k.val)
      (found : s.region? k = some g) (life : g.life = .defined) (table : t.table = (s.putRegion k none).table)
  | activated (matched : Bool) (k : SlotNo) (g : Region) (row : ∃ b, i = .activate b ∨ i = .activateMatched b)
      (found : s.region? k = some g) (life : g.life = .defined) (apart : ¬ s.clashing k g.defn)
      (pool : g.defn.double.isSome = true → s.poolUsed + g.defn.size ≤ 16384)
      (chains : State.chains Region.Acted (s.putRegion k (some (g.activated matched))) t)
  | hardReset (row : i = .hardReset ∨ i = .hardResetRelease) (free : ∀ k, t.region? k = none)

/-- What stands before the rest of a happening, and the acts after it. -/
theorem State.chains.settled (h : State.chains (Region.Changed m) s t) : State.chains (Region.Changed m) s t.settle :=
  h.trans (t.chains_settle.mono fun h => .carried (.acted h))

theorem Region.Acted.changed {g g' : Region} (h : Acted g g') : Changed m g g' := .carried (.acted h)

theorem State.Does.recorded {i : Instr} (h : s.Does i t) : s.Recorded i t := by
  cases h with
  | idle => exact .changed (.refl s)
  | link => exact .changed (.of_table rfl)
  | answered port req _ now =>
    cases hr : s.resolve port req with
    | refused k => exact .changed (s.chains_accept_refused port req k)
    | _ => exact .changed ((s.chains_accept port req _ (by simp)).mono Region.Acted.changed)
  | accepted port req _ later =>
    refine .changed (State.chains.settled ((s.chains_accept port req _ fun k hk => ?_).mono Region.Acted.changed))
    simp [hk, Resolution.answered] at later
  | taken port x rest front =>
    exact .changed (State.chains.settled
      (((State.chains_leaveCount _ x).behind (s.setTracker_table port rest)).mono .carried))
  | holdRelease => exact .changed (s.chains_holdRelease.mono Region.Acted.changed)
  | advance => exact .changed s.chains_advance
  | holdExpiry => exact .changed s.chains_holdExpiry
  | grant => exact .changed (.of_table s.grant_table)
  | memoryTakes => exact .changed (State.chains.settled (.of_table rfl))
  | mResponse status data o rest _ =>
    have handed := State.chains_handOver (m := s.queue.length) { s with outstanding := rest } le_rfl o.owner status data
    have taken : State.chains (Region.Changed s.queue.length) s { s with outstanding := rest } := .of_table rfl
    exact .changed (taken.trans handed).settled
  | copyTake => exact .changed (s.chains_copyTake.mono Region.Acted.changed)
  | replaySelect => exact .changed (s.chains_replaySelect.mono Region.Acted.changed)
  | replayIssue => exact .changed (s.chains_replayIssue.mono Region.Acted.changed)
  | sealedEntry k => exact .changed (.modRegion s k _ fun g _ => .carried (.acted (.sealed g s.queue k)))
  | drainEnd k => exact .changed (.modRegion s k _ fun g _ => .carried (.acted (.drained g s.queue k)))
  | returnToDefined k =>
    exact .changed (State.records.modRegion (fun _ => .refl) s k _ fun g _ =>
      ReflTransGen.mono (fun _ _ => Region.Acted.changed) _ _ (g.acted_returnIf _))
  | sealLine line => exact .changed (s.sealGroups_chains _)
  | sealMask b mask => exact .changed ((s.sealGroups_chains _).trans (.of_table rfl))
  | epoch source => exact .epoch source rfl rfl
  | define b p k slot free valid => exact .defined b p k rfl slot free valid rfl
  | undefine b k g slot found life => exact .undefined b k g rfl slot found life rfl
  | activate _ matched k g row found life apart pool =>
    exact .activated matched k g row found life apart pool ((State.chains_settle _).behind rfl)
  | retire b k g found life =>
    refine .changed (State.chains.settled ?_)
    have retire : State.chains (Region.Changed s.queue.length) s
        (s.modRegion k fun g => { g with life := .retiring }.recordDiscard (s.unissuedRecords k)) :=
      .modRegion s k _ fun g' hg' => by
        obtain rfl : g = g' := by simpa [found] using hg'
        exact .retired g _ (s.unissuedRecords_le k) life
    exact retire.trans (.of_table rfl)
  | revive b k g found ok =>
    refine .changed (State.chains.settled ?_)
    have revive : State.chains (Region.Changed s.queue.length) s (s.modRegion k Region.revived) :=
      .modRegion s k _ fun g' hg' => by
        obtain rfl : g = g' := by simpa [found] using hg'
        exact .revived g ok
    exact revive.trans (.of_table rfl)
  | scroll b v k g found life below =>
    refine .changed (State.chains.trans (.modRegion s k (·.scrolled v.toNat) fun g' hg' => ?_) (.of_table rfl))
    obtain rfl : g = g' := by simpa [found] using hg'
    exact .scrolled g _ below
  | setStep b v k g found life below =>
    refine .changed (State.chains.trans (.modRegion s k
      (fun g => { g with rot := g.rot.map fun x => { x with step := v.toNat } }) fun g' hg' => ?_) (.of_table rfl))
    obtain rfl : g = g' := by simpa [found] using hg'
    exact .stepped g _ below
  | clear b mask options k g found =>
    exact .changed (State.chains.trans (.modRegion s k (·.cleared mask (asksCounters options)) fun g _ =>
      .cleared g mask _) (.of_table rfl))
  | policy => exact .changed (.of_table rfl)
  | softreset b => exact .changed (State.chains.settled (s.beginSoftReset_chains.trans (.of_table rfl)))
  | softResetEnd => exact .changed (.of_table s.softResetEnd_table)
  | hardReset _ up row => exact .hardReset row (s.hardReset_region? up)

end Sys2Proof.Machine
end

section
/-! PROOFS. What every command keeps of each record: its definition part, the agreement of its counts with its line map, the places
of its items, its health and score. Each is one case split over the ways a record changes. -/

namespace Sys2Proof.Machine

open Relation

variable {s t : State} {i : Instr} {m : Nat} {g g' : Region}

/-! ### Facts of one record, after any command -/

/-- What each record has is kept by a command, when every change, an epoch and an activation keep it and a new record has it. -/
theorem State.Recorded.keeps {P : Region → Prop} (h : s.Recorded i t)
    (changed : ∀ {g g'}, Region.Changed s.queue.length g g' → P g → P g') (epoch : ∀ g, P g → P g.epoch)
    (defined : ∀ p, ValidDefinition p → P (newRegion (definitionOf p)))
    (activated : ∀ g b, P g → P (g.activated b))
    (hs : ∀ k, ∀ g ∈ s.region? k, P g) : ∀ k, ∀ g ∈ t.region? k, P g := by
  have acted : ∀ (_ : SlotNo) {g g'}, Region.Acted g g' → P g → P g' := fun _ _ _ h => changed h.changed
  cases h with
  | changed chains => exact chains.keeps (P := fun _ => P) (fun _ => changed) hs
  | epoch source row result =>
    subst result
    refine (State.chains_settle _).keeps (P := fun _ => P) acted fun k g hg => ?_
    rw [s.region?_epoch, Option.mem_map] at hg
    obtain ⟨g₀, hg₀, rfl⟩ := hg
    split
    · exact epoch g₀ (hs k g₀ hg₀)
    · exact hs k g₀ hg₀
  | defined b p k row slot free valid table =>
    intro j g hg
    have : t.region? j = (s.putRegion k (some (newRegion (definitionOf p)))).region? j := by simp [State.region?, table]
    rw [this, s.region?_putRegion] at hg
    split at hg
    · cases hg; exact defined p valid
    · exact hs j g hg
  | undefined b k g row slot found life table =>
    intro j g hg
    have : t.region? j = (s.putRegion k none).region? j := by simp [State.region?, table]
    rw [this, s.region?_putRegion] at hg
    split at hg
    · cases hg
    · exact hs j g hg
  | activated matched k g row found life apart pool chains =>
    refine chains.keeps (P := fun _ => P) acted fun j x hx => ?_
    rw [s.region?_putRegion] at hx
    split at hx
    · cases hx; exact activated g matched (hs k g found)
    · exact hs j x hx
  | hardReset row free => intro k g hg; simp [free k] at hg

/-! ### The definition part -/

theorem Region.recordDiscard_keeps (g : Region) (n : Nat) : (g.recordDiscard n).defn = g.defn ∧
    (g.recordDiscard n).life = g.life ∧ (g.recordDiscard n).cycle = g.cycle ∧ (g.recordDiscard n).rot = g.rot ∧
    (g.recordDiscard n).health = g.health ∧ (g.recordDiscard n).score = g.score := by
  simp only [Region.recordDiscard]
  split <;> exact ⟨rfl, rfl, rfl, rfl, rfl, rfl⟩

theorem Region.withScore_keeps (g : Region) (n : Nat) : (g.withScore n).defn = g.defn ∧ (g.withScore n).life = g.life ∧
    (g.withScore n).cycle = g.cycle ∧ (g.withScore n).rot = g.rot ∧ (g.withScore n).score = n ∧
    ((g.withScore n).health = .fenced ↔ g.health = .fenced) := by
  by_cases h : g.health = .fenced
  · rw [g.withScore_fenced n h]
    simp [h]
  · rw [g.withScore_eq n h]
    refine ⟨rfl, rfl, rfl, rfl, rfl, ?_⟩
    simp only [h, iff_false]
    split <;> simp

theorem Region.changeOffset_keeps (g : Region) : g.changeOffset.defn = g.defn ∧ g.changeOffset.life = g.life ∧
    g.changeOffset.cycle = g.cycle ∧ g.changeOffset.health = g.health ∧ g.changeOffset.score = g.score := by
  simp only [Region.changeOffset]
  split <;> exact ⟨rfl, rfl, rfl, rfl, rfl⟩

theorem Region.cleared_keeps (g : Region) (mask : Kinds) (b : Bool) : (g.cleared mask b).defn = g.defn ∧
    (g.cleared mask b).life = g.life ∧ (g.cleared mask b).cycle = g.cycle ∧ (g.cleared mask b).rot = g.rot := by
  simp only [Region.cleared]
  split
  · split <;> exact ⟨rfl, rfl, rfl, rfl⟩
  · exact ⟨rfl, rfl, rfl, rfl⟩

theorem Region.drainEnd_eq (g : Region) (queue : List QRecord) (k : SlotNo) : ∃ f, g.drainEnd queue k = g.modCycle f := by
  simp only [Region.drainEnd]
  split
  · exact ⟨_, rfl⟩
  · exact ⟨id, by simp [Region.modCycle]⟩

theorem Region.sealedEntry_eq (g : Region) (queue : List QRecord) (k : SlotNo) :
    ∃ f, g.sealedEntry queue k = g.modCycle f := by
  simp only [Region.sealedEntry]
  split
  · exact ⟨_, rfl⟩
  · exact ⟨id, by simp [Region.modCycle]⟩

/-- An act rewrites the publish cycle items, or returns the record. -/
theorem Region.Acted.modCycle_or_returned (h : Acted g g') :
    (∃ f, g' = g.modCycle f) ∨ (g.life = .retiring ∧ g' = g.returned) := by
  cases h with
  | drained queue k => exact .inl (g.drainEnd_eq queue k)
  | sealed queue k => exact .inl (g.sealedEntry_eq queue k)
  | returned life => exact .inr ⟨life, rfl⟩
  | _ => exact .inl ⟨_, rfl⟩

theorem Region.Carried.modCycle_or_returned (h : Carried g g') :
    (∃ f, g' = g.modCycle f) ∨ (g.life = .retiring ∧ g' = g.returned) := by
  cases h with
  | acted h => exact h.modCycle_or_returned
  | _ => exact .inl ⟨_, rfl⟩

theorem Region.Changed.defn (h : Changed m g g') : g'.defn = g.defn := by
  cases h with
  | carried h => rcases h.modCycle_or_returned with ⟨f, rfl⟩ | ⟨-, rfl⟩ <;> rfl
  | reported => exact g.afterReport_keeps.2.1
  | fenced n => exact (Region.recordDiscard_keeps _ n).1
  | retired n => exact (Region.recordDiscard_keeps _ n).1
  | scrolled v => simp only [Region.scrolled]; split <;> rfl
  | cleared mask b => exact (g.cleared_keeps mask b).1
  | _ => rfl

theorem Region.publish_defn (g : Region) : g.publish.defn = g.defn :=
  ((Region.withScore_keeps _ _).1.trans (Region.changeOffset_keeps _).1).trans rfl

theorem Region.epoch_defn (g : Region) : g.epoch.defn = g.defn := by
  simp only [Region.epoch]
  split
  · exact g.changeOffset_keeps.1
  · split
    · exact g.publish_defn
    · rfl
    all_goals rfl

theorem defn_of_chain (h : ReflTransGen (Region.Changed m) g g') : g'.defn = g.defn :=
  keeps_of_chain (P := fun x => x.defn = g.defn) (fun hc h => hc.defn.trans h) h rfl

theorem definitionOf_holds (p : DefineParams) : (definitionOf p).holds p := ⟨rfl, rfl, rfl, rfl, rfl, rfl, rfl, rfl⟩

/-- The definition part of a record that stays in its slot, and the slots that lose or gain a record. -/
theorem State.Recorded.definitions (h : s.Recorded i t) (k : SlotNo) :
    (∀ g ∈ s.region? k, (∃ g' ∈ t.region? k, g'.defn = g.defn) ∨
      (t.region? k = none ∧ (i = .hardReset ∨ i = .hardResetRelease ∨
        ∃ slot : Byte, i = .undefine slot ∧ slot.toNat = k.val ∧ g.life = .defined))) ∧
    (s.region? k = none → t.region? k = none ∨
      ∃ (slot : Byte) (p : DefineParams), i = .define slot p ∧ slot.toNat = k.val ∧ ValidDefinition p ∧
        ∃ g ∈ t.region? k, g.life = .defined ∧ g.defn.holds p) := by
  cases h with
  | changed chains =>
    refine ⟨fun g hg => .inl ?_, fun hk => .inl (chains.region?_eq_none hk)⟩
    obtain ⟨g', hg', hc⟩ := chains.exists_of_some hg
    exact ⟨g', hg', defn_of_chain hc⟩
  | epoch source row result =>
    subst result
    have chains := (State.chains_settle (s.epoch source)).mono (Region.Acted.changed (m := 0))
    refine ⟨fun g hg => .inl ?_, fun hk => .inl (chains.region?_eq_none (by simp [s.region?_epoch, hk]))⟩
    obtain ⟨g', hg', hc⟩ := chains.exists_of_some ((s.region?_epoch source k).trans (congrArg _ hg))
    refine ⟨g', hg', (defn_of_chain hc).trans ?_⟩
    dsimp only
    split
    · exact g.epoch_defn
    · rfl
  | defined b p k' row slot free valid table =>
    have ht : t.region? k = (s.putRegion k' (some (newRegion (definitionOf p)))).region? k := by simp [State.region?, table]
    rw [ht, s.region?_putRegion]
    by_cases hk : k = k'
    · subst k'
      rw [if_pos rfl, free]
      exact ⟨(fun g hg => nomatch hg), fun _ => .inr ⟨b, p, row, slot, valid, _, rfl, rfl, definitionOf_holds p⟩⟩
    · simp only [if_neg hk]
      exact ⟨fun g hg => .inl ⟨g, hg, rfl⟩, fun h => .inl h⟩
  | undefined b k' g row slot found life table =>
    have ht : t.region? k = (s.putRegion k' none).region? k := by simp [State.region?, table]
    rw [ht, s.region?_putRegion]
    by_cases hk : k = k'
    · subst k'
      rw [if_pos rfl, found]
      exact ⟨fun g' hg' => by cases hg'; exact .inr ⟨rfl, .inr (.inr ⟨b, row, slot, life⟩)⟩, fun h => .inl rfl⟩
    · simp only [if_neg hk]
      exact ⟨fun g hg => .inl ⟨g, hg, rfl⟩, fun h => .inl h⟩
  | activated matched k' g row found life apart pool chains =>
    have chains := chains.mono (Region.Acted.changed (m := 0))
    have hput : ∀ x, s.region? k = some x →
        ∃ x', (s.putRegion k' (some (g.activated matched))).region? k = some x' ∧ x'.defn = x.defn := by
      intro x hx
      rw [s.region?_putRegion]
      split
      · subst k'
        obtain rfl : g = x := by simpa [found] using hx
        exact ⟨_, rfl, rfl⟩
      · exact ⟨x, hx, rfl⟩
    constructor
    · intro x hx
      obtain ⟨x', hx', hd⟩ := hput x hx
      obtain ⟨g', hg', hc⟩ := chains.exists_of_some hx'
      exact .inl ⟨g', hg', (defn_of_chain hc).trans hd⟩
    · intro hk
      refine .inl (chains.region?_eq_none ?_)
      rw [s.region?_putRegion, if_neg, hk]
      rintro rfl
      simp [found] at hk
  | hardReset row free =>
    exact ⟨fun g _ => .inr ⟨free k, row.imp_right .inl⟩, fun _ => .inl (free k)⟩

/-- Settles O53: no change of a record touches its definition part, and the table gains and loses records in three commands. -/
theorem definitionsChangeOnlyByDefineAndUndefine : Obligations.DefinitionsChangeOnlyByDefineAndUndefine :=
  fun _ _ _ k h => (State.does_of_exec h).recorded.definitions k

/-! ### Counts and line map (R28, R46) -/

/-- The counts of the cycle items agree with their line map. -/
def Cycle.counted (c : Cycle) : Prop :=
  c.stale = c.lines.countP (fun l => l == .stale || l == .copying) ∧ c.dirty = c.lines.countP (· == .dirty)

/-- What `State.countsAgree` says of one record. -/
def Region.counted (g : Region) : Prop := ∀ c ∈ g.cycle, c.counted ∧ c.lines.length = g.defn.size

theorem State.countsAgree_iff (s : State) : s.countsAgree ↔ ∀ k, ∀ g ∈ s.region? k, g.counted := by
  simp only [State.countsAgree, Region.counted, Cycle.counted, and_assoc]

/-- Replacing an element moves a count by what the new and the old one count. -/
theorem countP_set_of_some {α : Type} (p : α → Bool) {l : List α} {n : Nat} {old : α} (h : l[n]? = some old) (new : α) :
    (l.set n new).countP p + (if p old then 1 else 0) = l.countP p + (if p new then 1 else 0) := by
  induction l generalizing n with
  | nil => simp at h
  | cons x xs ih =>
    cases n with
    | zero =>
      obtain rfl : x = old := by simpa using h
      simp only [List.set_cons_zero, List.countP_cons]
      omega
    | succ n =>
      have := ih (n := n) (by simpa using h)
      simp only [List.set_cons_succ, List.countP_cons]
      omega

theorem Cycle.counted.setLine {c : Cycle} (h : c.counted) (n : Nat) (new : LineState) : (c.setLine n new).counted := by
  cases hl : c.lines[n]? with
  | none => rwa [c.setLine_of_none n new hl]
  | some old =>
    obtain ⟨hs, hd⟩ := h
    rw [c.setLine_of_some n new old hl]
    have stale := countP_set_of_some (fun l => l == LineState.stale || l == .copying) hl new
    have dirty := countP_set_of_some (· == LineState.dirty) hl new
    have unit : ∀ l : LineState, l.staleUnit = (if (l == .stale || l == .copying) = true then 1 else 0) ∧
        l.dirtyUnit = if (l == .dirty) = true then 1 else 0 := by
      intro l; cases l <;> exact ⟨rfl, rfl⟩
    refine ⟨?_, ?_⟩
    · simp only [(unit _).1, hs]
      omega
    · simp only [(unit _).2, hd]
      omega

theorem countP_map_stale (l : List LineState) (a b : LineState)
    (h : a = .copying ∧ b = .stale) :
    (l.map fun x => if x = a then b else x).countP (fun x => x == .stale || x == .copying) =
      l.countP (fun x => x == .stale || x == .copying) ∧
    (l.map fun x => if x = a then b else x).countP (· == .dirty) = l.countP (· == .dirty) := by
  obtain ⟨rfl, rfl⟩ := h
  simp only [List.countP_map]
  constructor <;>
  · congr 1
    funext x
    cases x <;> rfl

theorem Cycle.counted.giveUpCopies {c : Cycle} (h : c.counted) : c.giveUpCopies.counted := by
  obtain ⟨hs, hd⟩ := countP_map_stale c.lines .copying .stale ⟨rfl, rfl⟩
  exact ⟨h.1.trans hs.symm, h.2.trans hd.symm⟩

/-- At a publish the DIRTY lines join the STALE ones. -/
theorem countP_map_publish (l : List LineState) :
    (l.map fun x => if x = .dirty then .stale else x).countP (fun x => x == .stale || x == .copying) =
      l.countP (fun x => x == .stale || x == .copying) + l.countP (· == .dirty) ∧
    (l.map fun x => if x = LineState.dirty then .stale else x).countP (· == .dirty) = 0 := by
  induction l with
  | nil => exact ⟨rfl, rfl⟩
  | cons x xs ih => cases x <;> simp [ih] <;> omega

theorem Cycle.counted.publish {c : Cycle} (h : c.counted) : c.publish.counted := by
  obtain ⟨hs, hd⟩ := countP_map_publish c.lines
  exact ⟨by rw [Cycle.publish, hs, h.1, h.2], hd.symm⟩

theorem Cycle.counted.of_eq {c c' : Cycle} (h : c.counted) (hs : c'.stale = c.stale) (hd : c'.dirty = c.dirty)
    (hl : c'.lines = c.lines) : c'.counted := by
  simpa only [Cycle.counted, hs, hd, hl] using h

/-- A change of publish state and seal-pending flag that neither halts nor revives, and keeps the flag to DRAINING (R74). -/
structure Cycle.PubMoves (c : Cycle) (pub : PubState) (pending : Bool) : Prop where
  halts : pub = .halted ↔ c.pub = .halted
  pends : (c.sealPending = true → c.pub = .draining) → pending = true → pub = .draining

theorem Cycle.takeSeal_keeps (c : Cycle) (queue : List QRecord) (k : SlotNo) :
    ∃ pub pending, c.takeSeal queue k = { c with pub := pub, sealPending := pending } ∧ c.PubMoves pub pending := by
  simp only [Cycle.takeSeal]
  split
  · rename_i hp
    refine ⟨_, _, rfl, ⟨?_, fun h hpend => by simp [hp] at h; simp [h] at hpend⟩⟩
    split <;> simp [hp]
  · exact ⟨_, _, rfl, ⟨Iff.rfl, fun _ _ => ‹_›⟩⟩
  all_goals exact ⟨_, _, rfl, ⟨Iff.rfl, fun h => h⟩⟩

theorem Cycle.endDrain_keeps (c : Cycle) (queue : List QRecord) (k : SlotNo) (hp : c.pub = .draining) :
    ∃ pub pending, c.endDrain queue k = { c with pub := pub, sealPending := pending } ∧ c.PubMoves pub pending := by
  simp only [Cycle.endDrain]
  split
  · obtain ⟨pub, pending, h, moves⟩ := ({ c with pub := .opened, sealPending := false } : Cycle).takeSeal_keeps queue k
    exact ⟨pub, pending, h, ⟨by simpa [hp] using moves.halts, fun _ => moves.pends (by simp)⟩⟩
  · exact ⟨_, _, rfl, ⟨by simp [hp], fun _ h => absurd h ‹_›⟩⟩

theorem Cycle.enter_keeps (c : Cycle) (e : CountEntry) :
    ∃ a b w, c.enter e = { c with readersA := a, readersB := b, writers := w } := by
  cases e with
  | reader bank => cases bank <;> exact ⟨_, _, _, rfl⟩
  | writer => exact ⟨_, _, _, rfl⟩

theorem Cycle.leave_keeps (c : Cycle) (e : CountEntry) :
    ∃ a b w, c.leave e = { c with readersA := a, readersB := b, writers := w } := by
  cases e with
  | reader bank => cases bank <;> exact ⟨_, _, _, rfl⟩
  | writer => exact ⟨_, _, _, rfl⟩

/-- What an act or a response makes of the cycle items: lines that move, or other counts and another publish state. -/
inductive Cycle.Moved (c : Cycle) : Cycle → Prop
  | line (n : Nat) (l : LineState) : c.Moved (c.setLine n l)
  | rest (pub : PubState) (pending : Bool) (a b w : Nat) (moves : c.PubMoves pub pending) :
      c.Moved { c with pub := pub, sealPending := pending, readersA := a, readersB := b, writers := w }

theorem Region.drainEnd_cycle {c' : Cycle} {queue : List QRecord} {k : SlotNo}
    (h : (g.drainEnd queue k).cycle = some c') : ∃ c, g.cycle = some c ∧
      ((c' = c ∧ (g.life = .active → ¬ (c.pub = .draining ∧ c.readers c.draft = 0))) ∨
       (g.life = .active ∧ c.pub = .draining ∧ c.readers c.draft = 0 ∧ c' = c.endDrain queue k)) := by
  simp only [Region.drainEnd] at h
  split at h
  · simp only [Region.modCycle_cycle, Option.map_eq_some_iff] at h
    obtain ⟨c, hc, rfl⟩ := h
    refine ⟨c, hc, ?_⟩
    split
    · rename_i hl hd
      exact .inr ⟨hl, hd.1, hd.2, rfl⟩
    · exact .inl ⟨rfl, fun _ => ‹_›⟩
  · exact ⟨c', h, .inl ⟨rfl, fun hl => absurd hl ‹_›⟩⟩

theorem Region.sealedEntry_cycle {c' : Cycle} {queue : List QRecord} {k : SlotNo}
    (h : (g.sealedEntry queue k).cycle = some c') : ∃ c, g.cycle = some c ∧
      ((c' = c ∧ (g.life = .active → ¬ (c.pub = .sealWait ∧ c.readyToSeal queue k = true))) ∨
       (g.life = .active ∧ c.pub = .sealWait ∧ c.readyToSeal queue k = true ∧ c' = { c with pub := .isSealed })) := by
  simp only [Region.sealedEntry] at h
  split at h
  · simp only [Region.modCycle_cycle, Option.map_eq_some_iff] at h
    obtain ⟨c, hc, rfl⟩ := h
    refine ⟨c, hc, ?_⟩
    split
    · rename_i hl hd
      exact .inr ⟨hl, hd.1, hd.2, rfl⟩
    · exact .inl ⟨rfl, fun _ => ‹_›⟩
  · exact ⟨c', h, .inl ⟨rfl, fun hl => absurd hl ‹_›⟩⟩

theorem Region.Carried.moved {c' : Cycle} (h : Carried g g') (hc' : g'.cycle = some c') :
    ∃ c, g.cycle = some c ∧ c.Moved c' := by
  have same : ∀ c : Cycle, c.Moved c := fun c => .rest c.pub c.sealPending c.readersA c.readersB c.writers ⟨Iff.rfl, fun h => h⟩
  have mod : ∀ f : Cycle → Cycle, (∀ c : Cycle, c.Moved (f c)) → (g.modCycle f).cycle = some c' →
      ∃ c : Cycle, g.cycle = some c ∧ c.Moved c' := by
    intro f hf h
    simp only [Region.modCycle_cycle, Option.map_eq_some_iff] at h
    obtain ⟨c, hc, rfl⟩ := h
    exact ⟨c, hc, hf c⟩
  cases h with
  | left e =>
    refine mod _ (fun c => ?_) hc'
    obtain ⟨a, b, w, h⟩ := c.leave_keeps e
    exact h ▸ .rest c.pub c.sealPending a b w ⟨Iff.rfl, fun h => h⟩
  | lined n l => exact mod _ (fun c => .line n l) hc'
  | acted h =>
    cases h with
    | dirtied n => exact mod _ (fun c => .line n .dirty) hc'
    | taken c n => exact mod _ (fun c => .line n .copying) hc'
    | entered e =>
      refine mod _ (fun c => ?_) hc'
      obtain ⟨a, b, w, h⟩ := c.enter_keeps e
      exact h ▸ .rest c.pub c.sealPending a b w ⟨Iff.rfl, fun h => h⟩
    | drained queue k =>
      obtain ⟨c, hc, ⟨rfl, -⟩ | ⟨-, hp, -, rfl⟩⟩ := Region.drainEnd_cycle hc'
      · exact ⟨_, hc, same _⟩
      · obtain ⟨pub, pending, h, moves⟩ := c.endDrain_keeps queue k hp
        exact ⟨c, hc, h ▸ .rest pub pending c.readersA c.readersB c.writers moves⟩
    | sealed queue k =>
      obtain ⟨c, hc, ⟨rfl, -⟩ | ⟨-, hp, -, rfl⟩⟩ := Region.sealedEntry_cycle hc'
      · exact ⟨_, hc, same _⟩
      · exact ⟨c, hc, .rest .isSealed c.sealPending c.readersA c.readersB c.writers
          ⟨by simp [hp], fun h hpend => by simp [hp, hpend] at h⟩⟩
    | returned => cases hc'

theorem Cycle.Moved.keeps {c c' : Cycle} (h : c.Moved c') :
    c'.gen = c.gen ∧ c'.front = c.front ∧ c'.lines.length = c.lines.length := by
  cases h with
  | line n l =>
    obtain ⟨-, -, hgen, hfront, -⟩ := c.setLine_keeps n l
    exact ⟨hgen, hfront, by simp⟩
  | rest => exact ⟨rfl, rfl, rfl⟩

/-- A change of a record whose cycle items, where it has them, are counted and as long as before. -/
theorem Region.counted.of_cycle (h : g.counted) (hd : g'.defn = g.defn)
    (hc : ∀ c' ∈ g'.cycle, ∃ c ∈ g.cycle, (c.counted → c'.counted) ∧ c'.lines.length = c.lines.length) : g'.counted := by
  intro c' hc'
  obtain ⟨c, hcg, hcount, hlen⟩ := hc c' hc'
  obtain ⟨h1, h2⟩ := h c hcg
  exact ⟨hcount h1, by rw [hlen, h2, hd]⟩

/-- A change that keeps the cycle items. -/
theorem Region.counted.of_cycle_eq (h : g.counted) (hd : g'.defn = g.defn) (hc : g'.cycle = g.cycle) : g'.counted :=
  h.of_cycle hd fun c' hc' => ⟨c', hc ▸ hc', id, rfl⟩

theorem Region.counted.modCycle (h : g.counted) {f : Cycle → Cycle}
    (hf : ∀ c, (c.counted → (f c).counted) ∧ (f c).lines.length = c.lines.length) : (g.modCycle f).counted := by
  refine h.of_cycle rfl fun c' hc' => ?_
  simp only [Region.modCycle_cycle, Option.mem_map] at hc'
  obtain ⟨c, hc, rfl⟩ := hc'
  exact ⟨c, hc, hf c⟩

theorem Region.Changed.counted (hc : Changed m g g') (h : g.counted) : g'.counted := by
  cases hc with
  | carried hc =>
    have hd : g'.defn = g.defn := (Region.Changed.carried (m := m) hc).defn
    refine h.of_cycle hd fun c' hc' => ?_
    obtain ⟨c, hcg, hmove⟩ := hc.moved hc'
    refine ⟨c, hcg, fun hcount => ?_, hmove.keeps.2.2⟩
    cases hmove with
    | line n l => exact hcount.setLine n l
    | rest => exact hcount
  | reported => exact h.of_cycle_eq g.afterReport_keeps.2.1 g.afterReport_keeps.2.2.1
  | fenced n =>
    obtain ⟨hd, -, hcy, -⟩ := Region.recordDiscard_keeps
      (((({ g with health := .fenced, score := Config.fencedScore } : Region).modCycle fun c =>
        { c.giveUpCopies with pub := .halted, sealPending := false }).setCond .memerr).setCond .fenced) n
    refine h.of_cycle hd fun c' hc' => ?_
    rw [Region.fenced, hcy] at hc'
    simp only [Region.setCond_cycle, Region.modCycle_cycle, Option.mem_map] at hc'
    obtain ⟨c, hcg, rfl⟩ := hc'
    exact ⟨c, hcg, fun hcount => hcount.giveUpCopies, by simp [Cycle.giveUpCopies]⟩
  | seals queue k =>
    refine h.modCycle fun c => ?_
    obtain ⟨pub, pending, hs, -⟩ := c.takeSeal_keeps queue k
    rw [hs]
    exact ⟨id, rfl⟩
  | retired n => exact h.of_cycle_eq (Region.recordDiscard_keeps _ n).1 (Region.recordDiscard_keeps _ n).2.2.1
  | revived =>
    refine Region.counted.modCycle (g := { g with health := .healthy, score := 0 }) (h.of_cycle_eq rfl rfl) fun c => ?_
    simp [Cycle.counted, List.countP_replicate]
  | scrolled v =>
    refine h.of_cycle_eq ?_ ?_ <;>
    · simp only [Region.scrolled]; split <;> rfl
  | cleared mask b => exact h.of_cycle_eq (g.cleared_keeps mask b).1 (g.cleared_keeps mask b).2.2.1
  | reset => intro c hc; cases hc
  | _ => exact h.of_cycle_eq rfl rfl

theorem Region.counted.epoch (h : g.counted) : g.epoch.counted := by
  simp only [Region.epoch]
  split
  · exact h.of_cycle_eq g.changeOffset_keeps.1 g.changeOffset_keeps.2.2.1
  · split
    · refine h.of_cycle g.publish_defn fun c' hc' => ?_
      simp only [Region.publish, Region.setCond_cycle, (Region.withScore_keeps _ _).2.2.1,
        (Region.changeOffset_keeps _).2.2.1, Region.modCycle_cycle, Option.mem_map] at hc'
      obtain ⟨c, hcg, rfl⟩ := hc'
      exact ⟨c, hcg, fun hcount => hcount.publish, by simp [Cycle.publish]⟩
    · exact h.of_cycle_eq rfl rfl
    all_goals exact h

theorem newCycle_counted (n : Nat) (matched : Bool) : (newCycle n matched).counted := by
  cases matched <;> simp [Cycle.counted, newCycle, List.countP_replicate]

theorem Region.counted_activated (g : Region) (matched : Bool) : (g.activated matched).counted := by
  intro c hc
  simp only [Region.activated, Option.mem_map] at hc
  obtain ⟨p, -, rfl⟩ := hc
  exact ⟨newCycle_counted _ _, by simp [newCycle]; rfl⟩

theorem State.Does.countsAgree (h : s.Does i t) (hs : s.countsAgree) : t.countsAgree := by
  rw [State.countsAgree_iff] at hs ⊢
  exact h.recorded.keeps (P := Region.counted) Region.Changed.counted (fun _ h => h.epoch) (fun _ _ c hc => by cases hc)
    (fun g b _ => g.counted_activated b) hs

/-- Settles O56: every change of a record keeps its counts in agreement with its line map. -/
theorem everyStepKeepsTheCounts : Obligations.EveryStepKeepsTheCounts :=
  fun _ _ h hstep => step_keeps (P := State.countsAgree) (fun _ _ h => h) (fun _ _ _ h hd => hd.countsAgree h) h hstep

end Sys2Proof.Machine
end

section
/-! PROOFS. Places and health (R35, R74, R130, R145, R146), the generation (R44, R45, R78), and what traffic keeps of a record. -/

namespace Sys2Proof.Machine

open Relation

variable {s t : State} {i : Instr} {m : Nat} {g g' : Region}

/-! ### Places and health -/

/-- The rotation items lie below B (R130). -/
def Region.rotBelow (g : Region) : Prop :=
  g.rot.isSome = g.defn.rotation.isSome ∧
  ∀ x ∈ g.rot, ∀ r ∈ g.defn.rotation, r.autoStep < r.body ∧ x.offset < r.body ∧ x.step < r.body ∧ ∀ v ∈ x.staged, v < r.body

/-- What `State.wellPlaced` says of one record. -/
def Region.placed (g : Region) : Prop :=
  (g.cycle.isSome = true ↔ g.defn.double.isSome = true ∧ g.life ≠ .defined) ∧ g.rotBelow

/-- The health follows the score (R145). -/
def Region.scored (g : Region) : Prop :=
  (g.health = .healthy → g.score < 96) ∧ (g.health = .warned → 96 ≤ g.score) ∧ (g.health = .fenced → g.score = 256)

/-- What `State.healthAgrees` says of one record. -/
def Region.sound (g : Region) : Prop :=
  (∀ c ∈ g.cycle, (g.health = .fenced ↔ c.pub = .halted) ∧ (c.sealPending = true → c.pub = .draining)) ∧
  (g.defn.double = none → g.health ≠ .fenced) ∧ g.scored

theorem Region.rotBelow.of_eq (h : g.rotBelow) (hd : g'.defn = g.defn) (hr : g'.rot = g.rot) : g'.rotBelow := by
  simpa only [Region.rotBelow, hd, hr] using h

/-- A change of the rotation items that keeps them below B. -/
theorem Region.rotBelow.map (h : g.rotBelow) (hd : g'.defn = g.defn) {f : Rot → Rot} (hr : g'.rot = g.rot.map f)
    (hf : ∀ r ∈ g.defn.rotation, ∀ x : Rot, x.offset < r.body → x.step < r.body → (∀ v ∈ x.staged, v < r.body) →
      (f x).offset < r.body ∧ (f x).step < r.body ∧ ∀ v ∈ (f x).staged, v < r.body) : g'.rotBelow := by
  obtain ⟨h1, h2⟩ := h
  refine ⟨by simp [hr, hd, h1], fun x hx r hrot => ?_⟩
  rw [hr, Option.mem_map] at hx
  obtain ⟨y, hy, rfl⟩ := hx
  rw [hd] at hrot
  obtain ⟨ha, ho, hs, hv⟩ := h2 y hy r hrot
  exact ⟨ha, hf r hrot y ho hs hv⟩

/-- A change that keeps life, definition, rotation items and whether there are cycle items. -/
theorem Region.placed.of_eq (h : g.placed) (hd : g'.defn = g.defn) (hl : g'.life = g.life)
    (hc : g'.cycle.isSome = g.cycle.isSome) (hr : g'.rot = g.rot) : g'.placed :=
  ⟨by rw [hd, hl, hc]; exact h.1, h.2.of_eq hd hr⟩

/-- A change that keeps health and score, and of the cycle items publish state and flag. -/
theorem Region.sound.of_eq (h : g.sound) (hd : g'.defn = g.defn) (hh : g'.health = g.health) (hs : g'.score = g.score)
    (hc : ∀ c' ∈ g'.cycle, ∃ c ∈ g.cycle, (c'.pub = .halted ↔ c.pub = .halted) ∧
      ((c.sealPending = true → c.pub = .draining) → c'.sealPending = true → c'.pub = .draining)) : g'.sound := by
  obtain ⟨h1, h2, h3⟩ := h
  refine ⟨fun c' hc' => ?_, by rw [hd, hh]; exact h2, by simpa only [Region.scored, hh, hs] using h3⟩
  obtain ⟨c, hcg, hhalt, hpend⟩ := hc c' hc'
  obtain ⟨hf, hp⟩ := h1 c hcg
  exact ⟨by rw [hh, hhalt, hf], hpend hp⟩

theorem Region.sound.of_cycle_eq (h : g.sound) (hd : g'.defn = g.defn) (hh : g'.health = g.health)
    (hs : g'.score = g.score) (hc : g'.cycle = g.cycle) : g'.sound :=
  h.of_eq hd hh hs fun c' hc' => ⟨c', hc ▸ hc', Iff.rfl, id⟩

/-- A record with a new score that it scored by, and a health that is FENCED as before. -/
theorem Region.sound.rescored (h : g.sound) (hd : g'.defn = g.defn) (hh : g'.health = .fenced ↔ g.health = .fenced)
    (hc : g'.cycle = g.cycle) (hs : g'.scored) : g'.sound :=
  ⟨fun c hcg => by rw [hh]; exact h.1 c (hc ▸ hcg), by rw [hd]; exact fun hn => mt hh.1 (h.2.1 hn), hs⟩

theorem Region.scored_withScore (g : Region) (n : Nat) (hf : g.health = .fenced → n = 256) : (g.withScore n).scored := by
  by_cases hg : g.health = .fenced
  · obtain rfl := hf hg
    rw [g.withScore_fenced _ hg]
    simp [Region.scored, hg]
  · rw [g.withScore_eq n hg]
    simp only [Region.scored]
    split <;> simp <;> omega

theorem PubMoves_setLine (c : Cycle) (n : Nat) (l : LineState) :
    ((c.setLine n l).pub = .halted ↔ c.pub = .halted) ∧
    ((c.sealPending = true → c.pub = .draining) → (c.setLine n l).sealPending = true → (c.setLine n l).pub = .draining) := by
  obtain ⟨hp, hs, -⟩ := c.setLine_keeps n l
  rw [hp, hs]
  exact ⟨Iff.rfl, id⟩

theorem Cycle.Moved.pub {c c' : Cycle} (h : c.Moved c') : (c'.pub = .halted ↔ c.pub = .halted) ∧
    ((c.sealPending = true → c.pub = .draining) → c'.sealPending = true → c'.pub = .draining) := by
  cases h with
  | line n l => exact PubMoves_setLine c n l
  | rest pub pending a b w moves => exact ⟨moves.halts, moves.pends⟩

theorem Region.rotBelow.unstaged (h : g.rotBelow) (hd : g'.defn = g.defn)
    (hr : g'.rot = g.rot.map fun x => { x with staged := none }) : g'.rotBelow :=
  h.map hd hr fun _ _ _ ho hs _ => ⟨ho, hs, fun _ hv => nomatch hv⟩

theorem Region.Carried.placed (hc : Carried g g') (h : g.placed) : g'.placed := by
  rcases hc.modCycle_or_returned with ⟨f, rfl⟩ | ⟨-, rfl⟩
  · exact h.of_eq rfl rfl (by simp) rfl
  · exact ⟨by simp [Region.returned], h.2.unstaged rfl rfl⟩

theorem Region.Carried.sound (hc : Carried g g') (h : g.sound) : g'.sound := by
  refine h.of_eq (Region.Changed.carried (m := 0) hc).defn ?_ ?_ fun c' hc' => ?_
  · rcases hc.modCycle_or_returned with ⟨f, rfl⟩ | ⟨-, rfl⟩ <;> rfl
  · rcases hc.modCycle_or_returned with ⟨f, rfl⟩ | ⟨-, rfl⟩ <;> rfl
  · obtain ⟨c, hcg, hmove⟩ := hc.moved hc'
    exact ⟨c, hcg, hmove.pub⟩

theorem Region.fenced_eq (g : Region) (n : Nat) :
    g.fenced n =
      { g with
        health := .fenced, score := 256, lastDiscard := n
        conds := g.conds ||| 0x0050 ||| (if n = 0 then 0 else 0x0080)
        cycle := g.cycle.map fun c => { c with
          pub := .halted, sealPending := false, lines := c.lines.map fun l => if l = .copying then .stale else l } } := by
  simp only [Region.fenced, Region.recordDiscard, Region.setCond, setKind, CondKind.mask, CondKind.bit, Region.modCycle,
    Cycle.giveUpCopies, BitVec.or_assoc]
  split
  · simp_all
  · simp_all

theorem Region.revivable_iff (g : Region) : g.revivable = true ↔
    g.life = .active ∧ g.health = .fenced ∧ ∃ c ∈ g.cycle, c.pub = .halted := by
  simp only [Region.revivable, Bool.and_eq_true, beq_iff_eq, and_assoc]
  cases g.cycle <;> simp

theorem Region.belowBody_iff (g : Region) (v : Nat) : g.belowBody v = true ↔ ∃ r ∈ g.defn.rotation, v < r.body := by
  simp only [Region.belowBody]
  cases g.defn.rotation <;> simp

theorem Region.Changed.placed (hc : Changed m g g') (h : g.placed) : g'.placed := by
  cases hc with
  | carried hc => exact hc.placed h
  | reported =>
    obtain ⟨hl, hd, hcy, hr⟩ := g.afterReport_keeps
    exact h.of_eq hd hl (by rw [hcy]) hr
  | fenced n =>
    rw [g.fenced_eq]
    exact h.of_eq rfl rfl (by simp) rfl
  | retired n _ life =>
    obtain ⟨hd, hl, hcy, hr, -⟩ := Region.recordDiscard_keeps { g with life := .retiring } n
    refine ⟨?_, h.2.of_eq hd hr⟩
    rw [hd, hl, hcy]
    simpa [life] using h.1
  | scrolled v below =>
    obtain ⟨r, hr, hv⟩ := (g.belowBody_iff v).1 below
    simp only [Region.scrolled]
    split
    · refine ⟨h.1, h.2.map rfl rfl fun r' hr' x ho hs _ => ⟨ho, hs, ?_⟩⟩
      cases hr.symm.trans hr'
      simpa using hv
    all_goals
      refine ⟨h.1, h.2.map rfl rfl fun r' hr' x _ hs hst => ⟨?_, hs, hst⟩⟩
      cases hr.symm.trans hr'
      exact hv
  | stepped v below =>
    obtain ⟨r, hr, hv⟩ := (g.belowBody_iff v).1 below
    refine ⟨h.1, h.2.map rfl rfl fun r' hr' x ho _ hst => ⟨ho, ?_, hst⟩⟩
    cases hr.symm.trans hr'
    exact hv
  | cleared mask b =>
    obtain ⟨hd, hl, hcy, hr⟩ := g.cleared_keeps mask b
    exact h.of_eq hd hl (by rw [hcy]) hr
  | reset =>
    refine ⟨by simp [Region.softReset], h.2.map rfl rfl fun r _ x ho hs _ => ⟨?_, hs, fun _ hv => nomatch hv⟩⟩
    exact Nat.zero_lt_of_lt ho
  | seals => exact h.of_eq rfl rfl (by simp) rfl
  | revived => exact h.of_eq rfl rfl (by simp [Region.revived]) rfl
  | _ => exact h.of_eq rfl rfl rfl rfl

theorem Region.Changed.sound (hc : Changed m g g') (hp : g.placed) (h : g.sound) : g'.sound := by
  cases hc with
  | carried hc => exact hc.sound h
  | reported =>
    rw [← g.reported_eq]
    obtain ⟨hd, -, hcy, -, -, hf⟩ := g.withScore_keeps (chargedScore g.score)
    simp only [Region.reported]
    split
    · exact h.of_cycle_eq rfl rfl rfl rfl
    · rename_i hg
      exact h.rescored hd hf hcy (g.scored_withScore _ fun hx => absurd hx hg)
  | fenced n _ cycle =>
    rw [g.fenced_eq]
    refine ⟨fun c' hc' => ?_, fun hn => ?_, by simp [Region.scored]⟩
    · simp only [Option.mem_map] at hc'
      obtain ⟨c, -, rfl⟩ := hc'
      simp
    · have hdouble : g.defn.double = none := hn
      exact absurd (hp.1.1 cycle).1 (by simp [hdouble])
  | seals queue k =>
    refine h.of_eq rfl rfl rfl fun c' hc' => ?_
    simp only [Region.modCycle_cycle, Option.mem_map] at hc'
    obtain ⟨c, hcg, rfl⟩ := hc'
    obtain ⟨pub, pending, he, moves⟩ := c.takeSeal_keeps queue k
    rw [he]
    exact ⟨c, hcg, moves.halts, moves.pends⟩
  | retired n =>
    obtain ⟨hd, -, hcy, -, hh, hs⟩ := Region.recordDiscard_keeps { g with life := .retiring } n
    exact h.of_cycle_eq hd hh hs hcy
  | revived =>
    refine ⟨fun c' hc' => ?_, by simp [Region.revived], by simp [Region.scored, Region.revived]⟩
    simp only [Region.revived, Region.modCycle_cycle, Option.mem_map] at hc'
    obtain ⟨c, -, rfl⟩ := hc'
    simp only [Region.revived, Region.modCycle_health]
    split <;> simp
  | scrolled v => simp only [Region.scrolled]; split <;> exact h.of_cycle_eq rfl rfl rfl rfl
  | cleared mask b =>
    simp only [Region.cleared]
    split
    · split
      · exact h.of_cycle_eq rfl rfl rfl rfl
      · rename_i hhalt
        refine ⟨fun c hcg => ?_, by simp, by simp [Region.scored]⟩
        have hc' : c ∈ g.cycle := hcg
        have : c.pub ≠ .halted := by simpa [Option.mem_def.1 hc'] using hhalt
        exact ⟨by simp [this], (h.1 c hc').2⟩
    · exact h.of_cycle_eq rfl rfl rfl rfl
  | reset => exact ⟨(fun c hcg => nomatch hcg), by simp [Region.softReset], by simp [Region.softReset, Region.scored]⟩
  | _ => exact h.of_cycle_eq rfl rfl rfl rfl

theorem Region.rotBelow_changeOffset (h : g.rotBelow) : g.changeOffset.rotBelow := by
  simp only [Region.changeOffset]
  split
  · rename_i r hr
    refine h.map rfl rfl fun r' hr' x ho hs hst => ?_
    obtain rfl : r = r' := Option.some.inj (hr.symm.trans hr')
    simp only [Rot.change]
    split
    · rename_i v hv
      exact ⟨hst v hv, hs, fun _ hv => nomatch hv⟩
    · exact ⟨Nat.mod_lt _ (Nat.zero_lt_of_lt ho), hs, hst⟩
  · exact h

theorem Region.epoch_placed (h : g.placed) : g.epoch.placed := by
  have offset : ∀ x : Region, x.placed → x.changeOffset.placed := fun x hx => by
    obtain ⟨hd, hl, hcy, -⟩ := x.changeOffset_keeps
    exact ⟨by rw [hd, hl, hcy]; exact hx.1, Region.rotBelow_changeOffset hx.2⟩
  simp only [Region.epoch]
  split
  · exact offset g h
  · split
    · have hpub : (g.modCycle Cycle.publish).changeOffset.placed := offset _ (h.of_eq rfl rfl (by simp) rfl)
      obtain ⟨hd, hl, hcy, hr, -⟩ := Region.withScore_keeps (g.modCycle Cycle.publish).changeOffset (g.score - 1)
      exact (hpub.of_eq hd hl (by rw [hcy]) hr).of_eq rfl rfl rfl rfl
    · exact h.of_eq rfl rfl rfl rfl
    all_goals exact h

theorem Region.epoch_sound (h : g.sound) : g.epoch.sound := by
  have offset : ∀ x : Region, x.sound → x.changeOffset.sound := fun x hx => by
    obtain ⟨hd, -, hcy, hh, hs⟩ := x.changeOffset_keeps
    exact hx.of_cycle_eq hd hh hs hcy
  simp only [Region.epoch]
  split
  · exact offset g h
  · rename_i c hc
    obtain ⟨hhalt, hpend⟩ := h.1 c hc
    split
    · rename_i hseal
      have hnot : g.health ≠ .fenced := by simp [hhalt, hseal]
      have hpub : (g.modCycle Cycle.publish).sound := by
        refine h.of_eq rfl rfl rfl fun c' hc' => ⟨c, hc, ?_⟩
        obtain rfl : c.publish = c' := by simpa [hc] using hc'
        have hpending : c.sealPending = false := by simpa [hseal] using hpend
        refine ⟨?_, fun _ hp => ?_⟩
        · simp only [Cycle.publish, hseal]
          split <;> simp
        · have : c.sealPending = true := hp
          simp [hpending] at this
      have hoff := offset _ hpub
      obtain ⟨hd, -, hcy, -, -, hf⟩ := Region.withScore_keeps (g.modCycle Cycle.publish).changeOffset (g.score - 1)
      have hoff' := hoff.rescored hd hf hcy (Region.scored_withScore _ _ fun hx => by
        rw [(Region.changeOffset_keeps _).2.2.2.1] at hx
        exact absurd hx hnot)
      exact hoff'.of_cycle_eq rfl rfl rfl rfl
    · exact h.of_cycle_eq rfl rfl rfl rfl
    all_goals exact h

theorem newRegion_sound (p : DefineParams) (h : ValidDefinition p) :
    (newRegion (definitionOf p)).placed ∧ (newRegion (definitionOf p)).sound := by
  obtain ⟨-, -, -, -, -, hrot⟩ := h
  refine ⟨⟨by simp [newRegion], by simp [newRegion], fun x hx r hr => ?_⟩, ?_⟩
  · have hr' : r ∈ (definitionOf p).rotation := hr
    simp only [newRegion, Option.mem_map] at hx
    obtain ⟨r'', hr'', rfl⟩ := hx
    obtain rfl : r = r'' := Option.some.inj (hr'.symm.trans hr'')
    have hpres : p.flags.getLsbD 3 = true := by
      by_contra hn
      exact nomatch (if_neg hn).symm.trans hr'
    obtain rfl := Option.some.inj ((if_pos hpres).symm.trans hr')
    obtain ⟨h1, -, h3⟩ := hrot hpres
    exact ⟨h3, h1, h3, fun _ hv => nomatch hv⟩
  · exact ⟨(fun c hc => nomatch hc), by simp [newRegion], by simp [newRegion, Region.scored]⟩

theorem Region.activated_sound (h : g.placed) (b : Bool) : (g.activated b).placed ∧ (g.activated b).sound := by
  refine ⟨⟨by simp [Region.activated], h.2.unstaged rfl rfl⟩, fun c hc => ?_, by simp [Region.activated],
    by simp [Region.activated, Region.scored]⟩
  simp only [Region.activated, Option.mem_map] at hc
  obtain ⟨d, -, rfl⟩ := hc
  simp [Region.activated, newCycle]

theorem State.wellPlaced_iff (s : State) : s.wellPlaced ↔ ∀ k, ∀ g ∈ s.region? k, g.placed := Iff.rfl

theorem State.healthAgrees_iff (s : State) : s.healthAgrees ↔ ∀ k, ∀ g ∈ s.region? k, g.sound := Iff.rfl

theorem State.Does.placesAndHealth (h : s.Does i t) (hp : s.wellPlaced) (hh : s.healthAgrees) :
    t.wellPlaced ∧ t.healthAgrees := by
  have both := h.recorded.keeps (P := fun g => g.placed ∧ g.sound)
    (fun hc h => ⟨hc.placed h.1, hc.sound h.1 h.2⟩) (fun _ h => ⟨Region.epoch_placed h.1, Region.epoch_sound h.2⟩)
    newRegion_sound (fun _ b h => Region.activated_sound h.1 b) fun k g hg => ⟨hp k g hg, hh k g hg⟩
  exact ⟨fun k g hg => (both k g hg).1, fun k g hg => (both k g hg).2⟩

/-- Settles O58: every change of a record keeps its items in their places and its health with its score. -/
theorem everyStepKeepsPlacesAndHealth : Obligations.EveryStepKeepsPlacesAndHealth := by
  intro s t hp hh hstep
  exact step_keeps (P := fun s => s.wellPlaced ∧ s.healthAgrees) (fun _ _ h => h)
    (fun _ _ _ h hd => hd.placesAndHealth h.1 h.2) ⟨hp, hh⟩ hstep

end Sys2Proof.Machine
end

section
/-! PROOFS. The generation and the front bank (R44, R45, R78), and what traffic keeps of every record (R12, R39, R40, R62). -/

namespace Sys2Proof.Machine

open Relation

variable {s t : State} {i : Instr} {m : Nat} {g g' : Region}

/-! ### The generation -/

/-- Generation and front bank of `c'` are those of `c`. -/
def Cycle.sameBanks (c c' : Cycle) : Prop := c'.gen = c.gen ∧ c'.front = c.front

/-- Where both records have cycle items, generation and front bank are the same. -/
def Region.keepsBanks (c : Cycle) (g : Region) : Prop := ∀ c' ∈ g.cycle, c.sameBanks c'

theorem Region.Changed.keepsBanks {c : Cycle} (hc : Changed m g g') (h : g.keepsBanks c) : g'.keepsBanks c := by
  have of_cycle : ∀ {x : Region}, x.cycle = g.cycle → x.keepsBanks c := fun hx c' hc' => h c' (hx ▸ hc')
  have of_mod : ∀ f : Cycle → Cycle, (∀ x : Cycle, x.sameBanks (f x)) → Region.keepsBanks c (g.modCycle f) := by
    intro f hf c' hc'
    simp only [Region.modCycle_cycle, Option.mem_map] at hc'
    obtain ⟨x, hx, rfl⟩ := hc'
    obtain ⟨h1, h2⟩ := h x hx
    exact ⟨(hf x).1.trans h1, (hf x).2.trans h2⟩
  cases hc with
  | carried hc =>
    intro c' hc'
    obtain ⟨x, hx, hmove⟩ := hc.moved hc'
    obtain ⟨hg, hf, -⟩ := hmove.keeps
    obtain ⟨h1, h2⟩ := h x hx
    exact ⟨hg.trans h1, hf.trans h2⟩
  | reported => exact of_cycle g.afterReport_keeps.2.2.1
  | fenced n =>
    have : (g.fenced n).cycle = (g.modCycle fun c => { c with
        pub := .halted, sealPending := false, lines := c.lines.map fun l => if l = .copying then .stale else l }).cycle := by
      rw [g.fenced_eq]
      rfl
    intro c' hc'
    rw [this] at hc'
    refine of_mod _ (fun _ => ?_) c' hc'
    exact ⟨rfl, rfl⟩
  | seals queue k =>
    refine of_mod _ fun x => ?_
    obtain ⟨pub, pending, he, -⟩ := x.takeSeal_keeps queue k
    rw [he]
    exact ⟨rfl, rfl⟩
  | retired n => exact of_cycle (Region.recordDiscard_keeps _ n).2.2.1
  | revived => exact of_mod _ fun _ => ⟨rfl, rfl⟩
  | scrolled v => exact of_cycle (by simp only [Region.scrolled]; split <;> rfl)
  | cleared mask b => exact of_cycle (g.cleared_keeps mask b).2.2.1
  | reset => intro c' hc'; cases hc'
  | _ => exact of_cycle rfl

theorem keepsBanks_of_chain {c : Cycle} (h : ReflTransGen (Region.Changed m) g g') (hg : g.keepsBanks c) : g'.keepsBanks c :=
  keeps_of_chain (fun hc h => hc.keepsBanks h) h hg

theorem Region.keepsBanks_self {c : Cycle} (hc : g.cycle = some c) : g.keepsBanks c := by
  intro c' hc'
  obtain rfl : c = c' := Option.some.inj (hc.symm.trans hc')
  exact ⟨rfl, rfl⟩

theorem Region.publish_cycle (g : Region) : g.publish.cycle = g.cycle.map Cycle.publish := by
  simp only [Region.publish, Region.setCond_cycle, (Region.withScore_keeps _ _).2.2.1,
    (Region.changeOffset_keeps _).2.2.1, Region.modCycle_cycle]

/-- An epoch that a region takes in SEALED is a publish; in every other publish state it keeps the cycle items. -/
theorem Region.epoch_cycle {c : Cycle} (hc : g.cycle = some c) :
    g.epoch.cycle = some (if c.pub = .isSealed then c.publish else c) := by
  simp only [Region.epoch, hc]
  cases c.pub <;> simp [hc, Region.publish_cycle, Region.countMissed]

/-- Settles O54: only an epoch touches the banks, and only in SEALED; a region that is activated had no banks before. -/
theorem generationChangesOnlyAtAPublish : Obligations.GenerationChangesOnlyAtAPublish := by
  intro s t i k g g' c c' hp h hg hc hg' hc'
  cases (State.does_of_exec h).recorded with
  | changed chains =>
    obtain ⟨x, hx, hchain⟩ := chains.exists_of_some hg
    obtain rfl : x = g' := Option.some.inj (hx.symm.trans hg')
    exact .inl (keepsBanks_of_chain hchain (g.keepsBanks_self hc) c' hc')
  | epoch source row result =>
    subst result
    have chains := (State.chains_settle (s.epoch source)).mono (Region.Acted.changed (m := 0))
    have hepoch := (s.region?_epoch source k).trans (congrArg _ hg)
    obtain ⟨x, hx, hchain⟩ := chains.exists_of_some hepoch
    obtain rfl : x = g' := Option.some.inj (hx.symm.trans hg')
    dsimp only at hchain
    by_cases htake : (g.life == .active && g.defn.source == source) = true
    · rw [if_pos htake] at hchain
      have hcy := g.epoch_cycle hc
      by_cases hs : c.pub = .isSealed
      · rw [if_pos hs] at hcy
        obtain ⟨hgen, hfront⟩ := keepsBanks_of_chain hchain (g.epoch.keepsBanks_self hcy) c' hc'
        obtain ⟨hl, rfl⟩ : g.life = .active ∧ g.defn.source = source := by simpa using htake
        exact .inr ⟨row, hl, hs, hgen, hfront⟩
      · rw [if_neg hs] at hcy
        exact .inl (keepsBanks_of_chain hchain (g.epoch.keepsBanks_self hcy) c' hc')
    · rw [if_neg htake] at hchain
      exact .inl (keepsBanks_of_chain hchain (g.keepsBanks_self hc) c' hc')
  | defined b p k' row slot free valid table =>
    have ht : t.region? k = (s.putRegion k' (some (newRegion (definitionOf p)))).region? k := by simp [State.region?, table]
    rw [hg', s.region?_putRegion, if_neg, hg] at ht
    · obtain rfl : g' = g := Option.some.inj ht
      exact .inl (g'.keepsBanks_self hc c' hc')
    · rintro rfl
      simp [free] at hg
  | undefined b k' x row slot found life table =>
    have ht : t.region? k = (s.putRegion k' none).region? k := by simp [State.region?, table]
    rw [hg', s.region?_putRegion] at ht
    split at ht
    · cases ht
    · obtain rfl : g' = g := Option.some.inj (ht.trans hg)
      exact .inl (g'.keepsBanks_self hc c' hc')
  | activated matched k' x row found life apart pool chains =>
    have chains := chains.mono (Region.Acted.changed (m := 0))
    have hk : k ≠ k' := by
      rintro rfl
      obtain rfl : g = x := Option.some.inj (hg.symm.trans found)
      have := (hp k g hg).1.1 (by simp [hc])
      exact this.2 life
    obtain ⟨y, hy, hchain⟩ := chains.exists_of_some ((s.region?_putRegion_ne k' k _ hk).trans hg)
    obtain rfl : y = g' := Option.some.inj (hy.symm.trans hg')
    exact .inl (keepsBanks_of_chain hchain (g.keepsBanks_self hc) c' hc')
  | hardReset row free => simp [free k] at hg'

/-! ### What traffic keeps -/

theorem Region.keptIn_refl (g : Region) : g.keptIn g :=
  ⟨rfl, rfl, rfl, rfl, rfl, rfl, rfl, .inl ⟨rfl, rfl, rfl, rfl, fun c hc c' hc' => by
    obtain rfl : c = c' := Option.some.inj (hc.symm.trans hc')
    exact ⟨rfl, rfl, rfl⟩⟩⟩

/-- One act keeps what traffic keeps: it rewrites the cycle items of a record or returns a RETIRING one, once. -/
theorem Region.keptIn.carried {x : Region} (h : x.keptIn g) (hc : Carried g g') : x.keptIn g' := by
  obtain ⟨hd, hh, hs, hm, ht, hr, hl, hrest⟩ := h
  have hcycle := fun c' (hc' : g'.cycle = some c') => hc.moved hc'
  rcases hc.modCycle_or_returned with ⟨f, rfl⟩ | ⟨hlife, rfl⟩
  · refine ⟨hd, hh, hs, hm, ht, hr, hl, ?_⟩
    rcases hrest with ⟨h1, h2, h3, h4, h5⟩ | ⟨h1, h2, h3, h4, h5⟩
    · refine .inl ⟨h1, h2, h3, by simpa using h4, fun c hc c' hc' => ?_⟩
      obtain ⟨y, hy, hmove⟩ := hcycle c' hc'
      obtain ⟨hgen, hfront, hlen⟩ := hmove.keeps
      obtain ⟨e1, e2, e3⟩ := h5 c hc y hy
      exact ⟨hgen.trans e1, hfront.trans e2, hlen.trans e3⟩
    · exact .inr ⟨h1, h2, h3, by simp [h4], h5⟩
  · refine ⟨hd, hh, hs, hm, ht, hr, hl, ?_⟩
    rcases hrest with ⟨h1, h2, h3, -, -⟩ | ⟨-, h2, -⟩
    · refine .inr ⟨h1 ▸ hlife, rfl, ?_, rfl, ?_⟩
      · rw [← h2]
        simp [Region.returned, setKind, CondKind.mask, CondKind.bit]
      · rw [← h3]
        rfl
    · simp [hlife] at h2

theorem keptIn_of_chain (h : ReflTransGen Region.Carried g g') : g.keptIn g' :=
  keeps_of_chain (P := g.keptIn) (fun hc h => h.carried hc) h g.keptIn_refl

/-- The region a request meets is ACTIVE and holds it in its window (R6). -/
theorem State.region_of_matching {req : Request} {k : SlotNo} {g : Region} (h : s.matching req.addr = some (k, g)) :
    s.region? k = some g ∧ g.life = .active ∧ inWindowOf req g.defn := by
  simp only [State.matching, List.findSome?_eq_some_iff] at h
  obtain ⟨-, j, -, -, hj, -⟩ := h
  split at hj
  · rename_i x hx
    split at hj
    · rename_i hcond
      cases hj
      rw [Bool.and_eq_true, beq_iff_eq, Definition.inWindow_iff] at hcond
      exact ⟨hx, hcond⟩
    · cases hj
  · cases hj

/-- A request that traffic may bring is not refused at a region: the S port writes nowhere, the writer filter passes. -/
theorem State.resolve_ne_refused {port : Port} {req : Request} (h : isTraffic s (.requestAcceptance port req)) (k : SlotNo) :
    s.resolve port req ≠ .refused k := by
  simp only [State.resolve]
  split
  · simp
  · split
    · rename_i k' g hm
      obtain ⟨hg, hlife, hwin⟩ := State.region_of_matching hm
      cases hkind : req.kind with
      | read =>
        cases port with
        | s => simp only [resolveScan, hkind]; split <;> simp
        | p =>
          simp only [State.resolveProducer, hkind]
          split
          · simp
          · simp only [State.resolveRead]; split <;> simp
      | write =>
        obtain ⟨rfl, hpass⟩ := h hkind k' g hg hlife hwin
        rw [← Definition.filterPasses_iff] at hpass
        simp only [State.resolveProducer, hkind, hpass, if_true]
        split
        · simp
        · simp only [State.resolveWrite, resolveDirect]
          repeat' split
          all_goals simp
    · split <;> simp

/-- Traffic changes records as requests, responses and acts do. -/
theorem State.Does.chains_of_traffic (h : s.Does i t) (ht : isTraffic s i) : State.chains Region.Carried s t := by
  have acted : ∀ {a b : State}, State.chains Region.Acted a b → State.chains Region.Carried a b := fun h => h.mono .acted
  cases h with
  | idle => exact .refl s
  | link => exact .of_table rfl
  | answered port req => exact acted (s.chains_accept port req _ (State.resolve_ne_refused ht))
  | accepted port req =>
    exact acted ((s.chains_accept port req _ (State.resolve_ne_refused ht)).trans (State.chains_settle _))
  | taken port x rest =>
    exact ((State.chains_leaveCount _ x).behind (s.setTracker_table port rest)).trans (acted (State.chains_settle _))
  | holdRelease => exact acted s.chains_holdRelease
  | grant => exact .of_table s.grant_table
  | memoryTakes => exact acted ((State.chains_settle { s with mRequest := none }).behind rfl)
  | mResponse status data o rest =>
    obtain rfl : status = .okay := ht
    have taken : State.chains Region.Carried s { s with outstanding := rest } := .of_table rfl
    exact (taken.trans (State.chains_handOver_okay _ o.owner data)).trans (acted (State.chains_settle _))
  | copyTake => exact acted s.chains_copyTake
  | replaySelect => exact acted s.chains_replaySelect
  | replayIssue => exact acted s.chains_replayIssue
  | sealedEntry k => exact .modRegion s k _ fun g _ => .acted (.sealed g s.queue k)
  | drainEnd k => exact .modRegion s k _ fun g _ => .acted (.drained g s.queue k)
  | returnToDefined k =>
    exact State.records.modRegion (fun _ => .refl) s k _ fun g _ =>
      ReflTransGen.mono (fun _ _ h => .acted h) _ _ (g.acted_returnIf _)
  | softResetEnd => exact .of_table s.softResetEnd_table
  | activate _ matched k g row =>
    obtain ⟨b, rfl | rfl⟩ := row <;> exact absurd ht id
  | hardReset _ up row => rcases row with rfl | rfl <;> exact absurd ht id
  | _ => exact absurd ht id

theorem State.handOver_okay_outer (s : State) (o : Owner) (data : List Word) :
    (s.handOver o .okay data).outer = s.outer := by
  cases o with
  | port port place =>
    simp only [State.handOver, State.portResponse]
    split
    · rfl
    · exact s.setTracker_outer port _
  | engine e =>
    cases e with
    | replay =>
      simp only [State.handOver, State.replayResponse]
      split
      · rfl
      · rfl
      · split <;> rfl
    | slot j =>
      simp only [State.handOver, State.slotResponse]
      split
      · rfl
      · rfl
      · rename_i c _
        split
        · rfl
        · cases c.phase <;> rfl

theorem State.leaveCount_outer (s : State) (x : Tx) : (s.leaveCount x).outer = s.outer := by
  simp only [State.leaveCount]
  split
  · exact s.modCycle_outer _ _
  · rfl

theorem State.complete_outer (s : State) (port : Port) : (s.complete port).outer = s.outer := by
  simp only [State.complete]
  split
  · rw [State.leaveCount_outer, s.setTracker_outer]
  · rfl

theorem State.ifUp_outer {f : State → State} (h : (f s).outer = s.outer) : (s.ifUp f).outer = s.outer := by
  simp only [State.ifUp]
  split
  · exact h
  · rfl

/-- Traffic keeps frame and time base. -/
theorem outer_of_traffic (h : exec i s = .next t) (ht : isTraffic s i) : t.outer = s.outer := by
  cases i with
  | requestAcceptance port req =>
    cases h
    simp only [State.requestAcceptance]
    split
    · split <;> simp
    · rfl
  | responseTaken port =>
    cases h
    simp only [State.responseTaken]
    split
    · rw [State.settle_outer, s.complete_outer]
    · rfl
  | holdRelease => cases h; exact State.ifUp_outer s.holdRelease_outer
  | arbiterGrant => cases h; exact State.ifUp_outer s.grant_outer
  | memoryTakesRequest =>
    cases h
    refine State.ifUp_outer ?_
    simp only [State.memoryTakes]
    split
    · exact State.settle_outer _
    · rfl
  | mResponse status data =>
    cases h
    obtain rfl : status = .okay := ht
    refine State.ifUp_outer ?_
    simp only [State.mResponse]
    split
    · rfl
    · rw [State.settle_outer]
      exact State.handOver_okay_outer _ _ _
  | copyTake => cases h; exact State.ifUp_outer s.copyTake_outer
  | replaySelect => cases h; exact State.ifUp_outer s.replaySelect_outer
  | replayIssue => cases h; exact State.ifUp_outer s.replayIssue_outer
  | sealedEntry k => cases h; exact State.ifUp_outer rfl
  | drainEnd k => cases h; exact State.ifUp_outer rfl
  | returnToDefined k => cases h; exact State.ifUp_outer rfl
  | softResetEnd => cases h; exact State.ifUp_outer s.softResetEnd_outer
  | _ => exact absurd ht id

/-- Settles O52: the records go through chains of acts, each of which keeps what the statement lists, and no act touches the frame. -/
theorem trafficKeepsEveryRecord : Obligations.TrafficKeepsEveryRecord := by
  intro s t i ht h
  obtain ⟨hframe, htime⟩ := (s.outer_eq_iff t).1 (outer_of_traffic h ht)
  have chains := (State.does_of_exec h).chains_of_traffic ht
  refine ⟨hframe, htime, fun k => ⟨fun hk => chains.region?_eq_none hk, fun g hg => ?_⟩⟩
  obtain ⟨g', hg', hc⟩ := chains.exists_of_some hg
  exact ⟨g', hg', keptIn_of_chain hc⟩

end Sys2Proof.Machine
end

section
/-! PROOFS. The ranges (R2, R94, R144, R159, R164, R165, R179): lengths of lists, policies, passed-over counts, the values of a record. -/

namespace Sys2Proof.Machine

open Relation

variable {s t u : State} {i : Instr} {m : Nat} {g g' : Region}

/-! ### Lists and counts of the arbiter -/

/-- No list is longer than before, and policies and passed-over counts are as they were. -/
def State.NoLonger (s t : State) : Prop :=
  t.pTracker.length ≤ s.pTracker.length ∧ t.sTracker.length ≤ s.sTracker.length ∧ t.queue.length ≤ s.queue.length ∧
  t.outstanding.length ≤ s.outstanding.length ∧ t.holdLimit = s.holdLimit ∧ t.floor = s.floor ∧ t.pPassed = s.pPassed ∧
  t.cPassed = s.cPassed

theorem State.NoLonger.refl (s : State) : s.NoLonger s := ⟨le_rfl, le_rfl, le_rfl, le_rfl, rfl, rfl, rfl, rfl⟩

theorem State.NoLonger.trans (h : s.NoLonger t) (h' : t.NoLonger u) : s.NoLonger u := by
  obtain ⟨p, q, r, o, e1, e2, e3, e4⟩ := h
  obtain ⟨p', q', r', o', e1', e2', e3', e4'⟩ := h'
  exact ⟨p'.trans p, q'.trans q, r'.trans r, o'.trans o, e1'.trans e1, e2'.trans e2, e3'.trans e3, e4'.trans e4⟩

/-- The part of `State.inRange` that is not about records. -/
def State.metered (s : State) : Prop :=
  (s.pTracker.length ≤ 8 ∧ s.sTracker.length ≤ 8 ∧ s.queue.length ≤ 32 ∧ s.outstanding.length ≤ 8) ∧
  ((1 ≤ s.holdLimit ∧ s.holdLimit ≤ 65535) ∧ (2 ≤ s.floor ∧ s.floor ≤ 16)) ∧
  (s.pPassed < s.floor ∧ s.cPassed ≤ s.floor ∧ (s.cPassed = s.floor → s.pPassed = 0))

theorem State.NoLonger.metered (h : s.NoLonger t) (hs : s.metered) : t.metered := by
  obtain ⟨⟨h1, h2, h3, h4⟩, h5, h6⟩ := hs
  obtain ⟨p, q, r, o, e1, e2, e3, e4⟩ := h
  exact ⟨⟨p.trans h1, q.trans h2, r.trans h3, o.trans h4⟩, by rw [e1, e2]; exact h5, by rw [e2, e3, e4]; exact h6⟩

theorem State.noLonger_modHeld (s : State) (f : Tx → Tx) : s.NoLonger (s.modHeld f) :=
  ⟨by simp [State.modHeld], le_rfl, le_rfl, le_rfl, rfl, rfl, rfl, rfl⟩

theorem State.noLonger_joinDemand (s : State) (who : Requester) (k : SlotNo) (line : Nat) :
    s.NoLonger (s.joinDemand who k line) := by
  simp only [State.joinDemand]
  split <;> exact .refl s

theorem State.noLonger_replayDecide (s : State) (x : QRecord) : s.NoLonger (s.replayDecide x) := by
  rcases s.replayDecide_cases x with ⟨-, h⟩ | ⟨g, c, -, -, ⟨-, h⟩ | ⟨-, -, h⟩ | ⟨-, -, ⟨-, h⟩ | ⟨-, h⟩⟩⟩ <;> rw [h]
  · exact .refl s
  · exact ⟨le_rfl, le_rfl, le_rfl, le_rfl, rfl, rfl, rfl, rfl⟩
  · exact s.noLonger_joinDemand _ _ _
  · exact ⟨le_rfl, le_rfl, le_rfl, le_rfl, rfl, rfl, rfl, rfl⟩
  · simp [State.NoLonger, State.issueReplay]

theorem State.noLonger_takeLine (s : State) (j : Fin 4) (k : SlotNo) (line : Nat) : s.NoLonger (s.takeLine j k line) := by
  simp only [State.takeLine]
  split
  · exact .refl s
  · simp only [State.nowCopying_eq]
    exact .refl s

theorem State.noLonger_enginePresent (s : State) : s.NoLonger s.enginePresent := by
  rw [s.enginePresent_eq_presented]
  exact .refl s

theorem State.noLonger_replaySelect (s : State) : s.NoLonger s.replaySelect := by
  rcases s.replaySelect_cases with h | ⟨x, -, -, -, h⟩ <;> rw [h]
  · exact .refl s
  · have marked : s.NoLonger { s with queue := markFirst s.eligible s.queue } :=
      ⟨le_rfl, le_rfl, (markFirst_length _ _).le, le_rfl, rfl, rfl, rfl, rfl⟩
    exact marked.trans (State.noLonger_replayDecide _ x)

theorem State.noLonger_replayIssue (s : State) : s.NoLonger s.replayIssue := by
  rcases s.replayIssue_cases with h | ⟨x, -, -, -, h⟩ <;> rw [h]
  · exact .refl s
  · exact s.noLonger_replayDecide x

theorem State.noLonger_copyTake (s : State) : s.NoLonger s.copyTake := by
  rcases s.copyTake_cases with h | ⟨j, k, line, ptr, -, -, -, h⟩ <;> rw [h]
  · exact .refl s
  · exact State.NoLonger.trans (t := { s with rrPtr := ptr }) (.refl s) (State.noLonger_takeLine _ j k line)

theorem State.noLonger_softResetEnd (s : State) : s.NoLonger s.softResetEnd := by
  simp only [State.softResetEnd]
  split <;> exact .refl s

theorem State.metered_holdRelease (s : State) (h : s.metered) : s.holdRelease.metered := by
  rcases s.holdRelease_cases with e | ⟨t, k, g, c, _, _, _, -, -, -, -, -, ⟨-, -, e⟩ | ⟨-, hq, e⟩ | ⟨-, -, bank, -, e⟩⟩ <;> rw [e]
  · exact h
  · exact State.NoLonger.metered (State.noLonger_modHeld (s.modCycle k _) _) h
  · refine State.NoLonger.metered (State.noLonger_modHeld { s with queue := s.queue ++ [recordOf k g.defn c t.req] } _) ?_
    obtain ⟨⟨h1, h2, -, h4⟩, h5⟩ := h
    have hlen : (s.queue ++ [recordOf k g.defn c t.req]).length ≤ 32 := by simp; omega
    exact ⟨⟨h1, h2, hlen, h4⟩, h5⟩
  · exact State.NoLonger.metered (State.noLonger_modHeld (s.modCycle k _) _) h

/-- A passed-over count stays below the floor of R165: who reaches it first is granted, the P path before the copy engine. -/
theorem passed_after_grant {floor p c : Nat} {pp pe ps : Bool} {x : Position} (hf : 2 ≤ floor) (hp : p < floor)
    (hc : c ≤ floor) (hpc : c = floor → p = 0) (hx : chooseGrant floor p c pp pe ps = some x) :
    passedOver p pp (x == .p) < floor ∧ passedOver c pe (x == .engine) ≤ floor ∧
      (passedOver c pe (x == .engine) = floor → passedOver p pp (x == .p) = 0) := by
  by_cases hdueP : pp = false ∨ p < floor - 1
  · by_cases hdueE : pe = false ∨ c < floor - 1
    · rw [chooseGrant_of_none_due hdueP hdueE] at hx
      cases pp <;> cases pe <;> cases ps <;> simp at hx hdueP hdueE <;> subst hx <;> simp [passedOver] <;> omega
    · simp only [not_or, Bool.not_eq_false, not_lt] at hdueE
      rw [chooseGrant_engine_of_due hdueP hdueE.1 hdueE.2] at hx
      cases hx
      cases pp <;> simp [passedOver] at * <;> omega
  · simp only [not_or, Bool.not_eq_false, not_lt] at hdueP
    rw [chooseGrant_p_of_due hdueP.1 hdueP.2] at hx
    cases hx
    cases pe <;> simp [passedOver] <;> omega

theorem State.metered_countPassed {x : Position} (h : s.metered) (hx : s.grantee = some x) : (s.countPassed x).metered := by
  obtain ⟨h1, h2, h3, h4, h5⟩ := h
  obtain ⟨hout, hreq, -⟩ := State.grantee_presents s hx
  rw [State.grantee_of_free hout hreq] at hx
  exact ⟨h1, h2, passed_after_grant h2.2.1 h3 h4 h5 hx⟩

/-- One request goes out: the outstanding list grows by one, from at most 7. -/
theorem State.metered_sendOut (h : s.metered) (hout : s.outstanding.length < 8) (o : Owner) (r : MRequest) :
    (s.sendOut o r).metered := by
  obtain ⟨⟨h1, h2, h3, -⟩, h5⟩ := h
  have hlen : (s.sendOut o r).outstanding.length ≤ 8 := by simp [State.sendOut]; omega
  exact ⟨⟨h1, h2, h3, hlen⟩, h5⟩

theorem State.noLonger_map (s : State) (port : Port) (f : Tx → Tx) :
    s.NoLonger (s.setTracker port ((s.tracker port).map f)) := by
  cases port
  · exact ⟨by simp [State.tracker], le_rfl, le_rfl, le_rfl, rfl, rfl, rfl, rfl⟩
  · exact ⟨le_rfl, by simp [State.tracker], le_rfl, le_rfl, rfl, rfl, rfl, rfl⟩

theorem State.metered_grant (s : State) (h : s.metered) : s.grant.metered := by
  rcases s.grant_cases with e | ⟨port, x, -, hx, e⟩ | ⟨q, -, hx, e⟩ | ⟨x, hx, e⟩ <;> rw [e]
  · exact h
  · have hout := (State.grantee_presents s hx).1
    refine State.metered_sendOut ((State.noLonger_map _ port _).metered (State.metered_countPassed h hx)) ?_ _ _
    cases port <;> exact hout
  · have hout := (State.grantee_presents s hx).1
    simp only [State.grantEngine]
    split
    · exact (State.noLonger_enginePresent _).metered
        (State.metered_sendOut (s := (s.countPassed .engine).withdraw (· == q)) (State.metered_countPassed h hx) hout _ _)
    · exact State.metered_countPassed h hx
  · exact State.metered_countPassed h hx

theorem State.metered_settle (s : State) (h : s.metered) : s.settle.metered :=
  State.settle_induction s (P := State.metered) (fun t h => by simpa [State.metered, State.controllers] using h)
    State.metered_holdRelease
    (fun t h => t.noLonger_replaySelect.metered h) (fun t h => t.noLonger_replayIssue.metered h)
    (fun t h => t.noLonger_copyTake.metered h) (fun t h => t.noLonger_enginePresent.metered h)
    State.metered_grant (fun t h => by simpa [State.metered, State.returns] using h)
    (fun t h => t.noLonger_softResetEnd.metered h) (fun t h => by simpa [State.metered] using h) h

/-! ### Commands -/

theorem State.metered_addTx {port : Port} (h : s.metered) (can : s.canAccept port) (req : Request) (region : Option SlotNo)
    (bank : Option Bank) (phys : Option Nat) (state : TxState) (count : Option CountEntry) :
    (s.addTx port req region bank phys state count).metered := by
  obtain ⟨⟨h1, h2, h3, h4⟩, h5⟩ := h
  obtain ⟨-, -, hlen, -⟩ := can
  have grown : ∀ (l : List Tx) (x : Tx), l.length < 8 → (l ++ [x]).length ≤ 8 := fun l x hl => by simp; omega
  cases port
  · exact ⟨⟨grown s.pTracker _ hlen, h2, h3, h4⟩, h5⟩
  · exact ⟨⟨h1, grown s.sTracker _ hlen, h3, h4⟩, h5⟩

/-- What resolution finds before it decides, decision by decision (Tables 1-4, 3-3, 3-4, 5-1). -/
inductive State.Resolves (s : State) (port : Port) (req : Request) : Resolution → Prop
  | boundary : s.Resolves port req .boundary
  | unmatchedRefused : s.Resolves port req .unmatchedRefused
  | passed : s.Resolves port req .passed
  | refused (k : SlotNo) (g : Region) (found : s.region? k = some g) : s.Resolves port req (.refused k)
  | fenced (k : SlotNo) (g : Region) (found : s.region? k = some g) : s.Resolves port req (.fenced k)
  | single (k : SlotNo) (g : Region) (phys : Nat) (found : s.region? k = some g) (life : g.life = .active)
      (cycle : g.cycle = none) : s.Resolves port req (.issue k .a phys none)
  | read (k : SlotNo) (g : Region) (c : Cycle) (bank : Bank) (phys : Nat) (found : s.region? k = some g)
      (life : g.life = .active) (cycle : g.cycle = some c) (kind : req.kind = .read) :
      s.Resolves port req (.issue k bank phys (some (.reader bank)))
  | draftWrite (k : SlotNo) (g : Region) (c : Cycle) (phys : Nat) (onP : port = .p) (found : s.region? k = some g)
      (life : g.life = .active) (cycle : g.cycle = some c) (pub : c.pub = .opened) (none : s.hasRecord k = false)
      (line : c.line (g.defn.lineOf req.addr) ≠ .copying) (kind : req.kind = .write) :
      s.Resolves port req (.draftWrite k c.draft phys (g.defn.lineOf req.addr))
  | holdWrite (k : SlotNo) (g : Region) (c : Cycle) (reason : HoldReason) (onP : port = .p) (found : s.region? k = some g)
      (life : g.life = .active) (cycle : g.cycle = some c) (pub : c.pub = .opened) (none : s.hasRecord k = false)
      (line : (reason = .demand ∧ c.line (g.defn.lineOf req.addr) = .stale) ∨
        (reason = .copying ∧ c.line (g.defn.lineOf req.addr) = .copying)) :
      s.Resolves port req (.holdWrite k reason c.draft (g.defn.lineOf req.addr))
  | holdQueue (k : SlotNo) (g : Region) (c : Cycle) (onP : port = .p) (found : s.region? k = some g)
      (life : g.life = .active) (cycle : g.cycle = some c) (pub : c.pub ≠ .halted) (full : 32 ≤ s.queue.length) :
      s.Resolves port req (.holdQueue k)
  | holdOverlap (k : SlotNo) (g : Region) (c : Cycle) (onP : port = .p) (found : s.region? k = some g)
      (life : g.life = .active) (cycle : g.cycle = some c) (pub : c.pub ≠ .halted)
      (overlap : s.overlapped k g.defn req) : s.Resolves port req (.holdOverlap k)
  | posted (k : SlotNo) (g : Region) (c : Cycle) (onP : port = .p) (found : s.region? k = some g)
      (life : g.life = .active) (cycle : g.cycle = some c) (pub : c.pub ≠ .halted) (place : s.queue.length < 32) :
      s.Resolves port req (.posted k (recordOf k g.defn c req))

theorem State.resolves_write {port : Port} {req : Request} {k : SlotNo} {g : Region} {c : Cycle} (onP : port = .p)
    (found : s.region? k = some g) (life : g.life = .active) (cycle : g.cycle = some c) (kind : req.kind = .write) :
    s.Resolves port req (s.resolveWrite k g c req) := by
  simp only [State.resolveWrite]
  split
  · exact .fenced k g found
  · rename_i halted
    split
    · rename_i direct
      simp only [resolveDirect]
      split
      · exact .draftWrite k g c _ onP found life cycle direct.1 direct.2 (by simp_all) kind
      · exact .draftWrite k g c _ onP found life cycle direct.1 direct.2 (by simp_all) kind
      · split
        · exact .draftWrite k g c _ onP found life cycle direct.1 direct.2 (by simp_all) kind
        · exact .holdWrite k g c .demand onP found life cycle direct.1 direct.2 (.inl ⟨rfl, ‹_›⟩)
      · exact .holdWrite k g c .copying onP found life cycle direct.1 direct.2 (.inr ⟨rfl, ‹_›⟩)
    · split
      · exact .posted k g c onP found life cycle halted ‹_›
      · exact .holdQueue k g c onP found life cycle halted (Nat.le_of_not_lt ‹_›)

theorem State.resolves (s : State) (port : Port) (req : Request) : s.Resolves port req (s.resolve port req) := by
  simp only [State.resolve]
  split
  · exact .boundary
  · split
    · rename_i k g hm
      obtain ⟨found, life, -⟩ := State.region_of_matching hm
      cases port with
      | s =>
        simp only [resolveScan]
        split
        · exact .refused k g found
        · split
          · exact .single k g _ found life ‹_›
          · exact .read k g _ _ _ found life ‹_› ‹_›
      | p =>
        simp only [State.resolveProducer]
        split
        · split
          · exact .single k g _ found life ‹_›
          · rename_i kind _ c hc
            simp only [State.resolveRead]
            split
            · rename_i held
              exact .holdOverlap k g c rfl found life hc held.1 ((s.overlapsQueue_iff k g.defn req).1 held.2)
            · exact .read k g c _ _ found life hc kind
        · split
          · split
            · exact .single k g _ found life ‹_›
            · exact State.resolves_write rfl found life ‹_› ‹_›
          · exact .refused k g found
    · split
      · exact .unmatchedRefused
      · exact .passed

theorem State.metered_accept {port : Port} {req : Request} (h : s.metered) (can : s.canAccept port) :
    (s.accept port req (s.resolve port req)).metered := by
  have resolves := s.resolves port req
  generalize s.resolve port req = res at resolves
  cases res with
  | issue k bank phys count =>
    cases count with
    | none => exact State.metered_addTx h can ..
    | some e => exact State.metered_addTx h can ..
  | holdWrite k reason bank line =>
    simp only [State.accept]
    split
    · refine (State.noLonger_joinDemand _ _ _ _).metered ?_
      exact State.metered_addTx h can ..
    · exact State.metered_addTx h can ..
  | posted k x =>
    have hlen : s.queue.length < 32 := by cases resolves; assumption
    obtain ⟨⟨h1, h2, -, h4⟩, h5⟩ := h
    have hq : (s.queue ++ [x]).length ≤ 32 := by simp; omega
    exact State.metered_addTx (s := { s with queue := s.queue ++ [x] }) ⟨⟨h1, h2, hq, h4⟩, h5⟩ can ..
  | _ => exact State.metered_addTx h can ..

theorem State.noLonger_holdExpiry (s : State) : s.NoLonger s.holdExpiry := by
  simp only [State.holdExpiry]
  split
  · exact .refl s
  · split
    · split <;> exact s.noLonger_modHeld _
    · exact .refl s

theorem State.fence_pTracker (s : State) (k : SlotNo) : (s.fence k).pTracker = s.pTracker.map fun t =>
    if t.isHeld && t.region == some k then { t with state := .done .fenced [] } else t := by
  simp [State.fence, State.answerHeldOf]

theorem State.fence_queue (s : State) (k : SlotNo) : (s.fence k).queue = s.queue.filter fun r => r.region != k := by
  simp [State.fence, State.dropRecords]

theorem State.noLonger_fence (s : State) (k : SlotNo) : s.NoLonger (s.fence k) := by
  refine ⟨by simp [State.fence_pTracker], ?_, by rw [State.fence_queue]; exact List.length_filter_le _ _, ?_⟩
  · simp [State.fence]
  · simp [State.fence]

theorem State.noLonger_reportError (s : State) (k : SlotNo) (third : Bool) : s.NoLonger (s.reportError k third) := by
  rcases s.reportError_cases k third with ⟨-, h⟩ | ⟨g, -, ⟨h, -⟩ | ⟨h, -⟩⟩ <;> rw [h]
  · exact .refl s
  · exact .refl s
  · exact State.noLonger_fence (s.putRegion k _) k

theorem State.noLonger_handOver (s : State) (o : Owner) (status : MStatus) (data : List Word) :
    s.NoLonger (s.handOver o status data) := by
  cases o with
  | port port place =>
    simp only [State.handOver, State.portResponse]
    split
    · exact .refl s
    · cases status with
      | okay => exact s.noLonger_map port _
      | error =>
        simp only [State.upstreamError]
        split
        · exact (s.noLonger_map port _).trans (State.noLonger_reportError _ _ _)
        · exact s.noLonger_map port _
  | engine e =>
    cases e with
    | replay =>
      have removed : s.NoLonger { s with replay := .idle, queue := s.queue.filter fun r => !r.selected } :=
        ⟨le_rfl, le_rfl, List.length_filter_le _ _, le_rfl, rfl, rfl, rfl, rfl⟩
      simp only [State.handOver, State.replayResponse]
      split
      · exact .refl s
      · exact .refl s
      · split
        · cases status with
          | okay => exact removed
          | error => exact removed.trans (State.noLonger_reportError _ _ _)
        · exact removed
    | slot j =>
      simp only [State.handOver, State.slotResponse]
      split
      · exact .refl s
      · exact .refl s
      · rename_i c _
        split
        · exact .refl s
        · cases status with
          | okay => cases c.phase <;> exact .refl s
          | error =>
            refine (s.noLonger_reportError c.region (Config.copyAttempts ≤ c.attempt)).trans ?_
            simp only [State.copyError]
            split <;> exact .refl _

theorem State.metered_setTracker_rest {port : Port} {x : Tx} {rest : List Tx} (h : s.metered)
    (front : s.tracker port = x :: rest) : (s.setTracker port rest).metered := by
  refine State.NoLonger.metered (s := s) ?_ h
  cases port
  · have hp : s.pTracker = x :: rest := front
    exact ⟨by simp [hp], le_rfl, le_rfl, le_rfl, rfl, rfl, rfl, rfl⟩
  · have hs : s.sTracker = x :: rest := front
    exact ⟨le_rfl, by simp [hs], le_rfl, le_rfl, rfl, rfl, rfl, rfl⟩

theorem State.metered_setPolicy {hold : BitVec 16} {floor unmatched : Byte} {mask : Kinds} (h : s.metered)
    (ok : policyOk hold floor unmatched mask = true) (refuse : Bool) :
    (s.setPolicy hold.toNat floor.toNat refuse mask).metered := by
  simp only [policyOk, Bool.and_eq_true, bne_iff_ne, decide_eq_true_eq] at ok
  obtain ⟨⟨⟨hhold, hfloor⟩, -⟩, -⟩ := ok
  have hpos : 1 ≤ hold.toNat := Nat.one_le_iff_ne_zero.2 fun hz => hhold (by simpa using BitVec.eq_of_toNat_eq hz)
  have hle : hold.toNat ≤ 65535 := by have := hold.isLt; omega
  refine ⟨h.1, ⟨⟨hpos, hle⟩, hfloor⟩, ?_⟩
  simp only [State.setPolicy]
  omega

theorem State.Does.metered (h : s.Does i t) (hs : s.metered) : t.metered := by
  cases h with
  | answered port req can => exact State.metered_accept hs can
  | accepted port req can => exact State.metered_settle _ (State.metered_accept hs can)
  | taken port x rest front =>
    have rest := State.metered_setTracker_rest hs front
    refine State.metered_settle _ ?_
    simp only [State.leaveCount]
    split
    · simpa [State.metered] using rest
    · exact rest
  | holdRelease => exact s.metered_holdRelease hs
  | advance =>
    have aged : s.NoLonger ({ s with timeBase := s.timeBase + 1 } : State).ageHold :=
      State.NoLonger.trans (t := { s with timeBase := s.timeBase + 1 }) (.refl s) (State.noLonger_modHeld _ _)
    exact State.NoLonger.metered (aged.trans (State.noLonger_holdExpiry _)) hs
  | holdExpiry => exact s.noLonger_holdExpiry.metered hs
  | grant => exact s.metered_grant hs
  | memoryTakes => exact State.metered_settle _ hs
  | mResponse status data o rest oldest =>
    have taken : s.NoLonger { s with outstanding := rest } :=
      ⟨le_rfl, le_rfl, le_rfl, by simp [oldest], rfl, rfl, rfl, rfl⟩
    exact State.metered_settle _ ((taken.trans (State.noLonger_handOver _ o.owner status data)).metered hs)
  | copyTake => exact s.noLonger_copyTake.metered hs
  | replaySelect => exact s.noLonger_replaySelect.metered hs
  | replayIssue => exact s.noLonger_replayIssue.metered hs
  | epoch source => exact State.metered_settle _ (by simpa [State.metered, State.epoch] using hs)
  | activate => exact State.metered_settle _ (by simpa [State.metered] using hs)
  | retire b k g =>
    have retired : s.NoLonger (s.retireRegion k) :=
      ⟨by simp [State.retireRegion, State.answerHeldOf, State.markEnding, State.undemandRegion, State.dropRecords], le_rfl,
        List.length_filter_le _ _, le_rfl, rfl, rfl, rfl, rfl⟩
    exact State.metered_settle _ (by simpa [State.metered] using retired.metered hs)
  | revive => exact State.metered_settle _ (by simpa [State.metered] using hs)
  | policy b hold floor unmatched mask ok =>
    simpa [State.metered] using State.metered_setPolicy hs ok (unmatched == 0x01)
  | softreset b =>
    obtain ⟨⟨h1, h2, -, h4⟩, h5, -⟩ := hs
    have hfloor : 0 < s.floor := by omega
    exact State.metered_settle _ (by simp [State.metered, State.beginSoftReset, h1, h2, h4, h5, hfloor])
  | softResetEnd => exact s.noLonger_softResetEnd.metered hs
  | hardReset _ up => simp [State.metered, State.hardReset, State.reset, Config.defaultHoldLimit, Config.defaultFloor]
  | idle => exact hs
  | link => exact hs
  | sealedEntry => exact hs
  | drainEnd => exact hs
  | returnToDefined => exact hs
  | sealLine => exact hs
  | _ => simpa [State.metered, State.sealGroups] using hs

/-! ### The values of a record -/

/-- What `State.inRange` says of one record. -/
def Region.bounded (g : Region) : Prop :=
  g.score ≤ 256 ∧ g.missed ≤ 255 ∧ g.timeouts ≤ 255 ∧ g.refused ≤ 255 ∧ g.lastDiscard ≤ 32

theorem upByOne_le (n : Nat) (h : n ≤ 255) : upByOne n ≤ 255 := by
  simp only [upByOne]
  split <;> omega

theorem Region.bounded_recordDiscard {n : Nat} (h : g.bounded) (hn : n ≤ 32) : (g.recordDiscard n).bounded := by
  obtain ⟨h1, h2, h3, h4, -⟩ := h
  simp only [Region.recordDiscard]
  split
  · exact ⟨h1, h2, h3, h4, Nat.zero_le _⟩
  · exact ⟨h1, h2, h3, h4, hn⟩

theorem Region.bounded_withScore {n : Nat} (h : g.bounded) (hn : n ≤ 256) : (g.withScore n).bounded := by
  obtain ⟨-, h2⟩ := h
  by_cases hf : g.health = .fenced
  · rw [g.withScore_fenced n hf]; exact ⟨hn, h2⟩
  · rw [g.withScore_eq n hf]; exact ⟨hn, h2⟩

theorem Region.Changed.bounded (hc : Changed m g g') (hm : m ≤ 32) (h : g.bounded) : g'.bounded := by
  obtain ⟨h1, h2, h3, h4, h5⟩ := h
  cases hc with
  | carried hc => rcases hc.modCycle_or_returned with ⟨f, rfl⟩ | ⟨-, rfl⟩ <;> exact ⟨h1, h2, h3, h4, h5⟩
  | refused => exact ⟨h1, h2, h3, upByOne_le _ h4, h5⟩
  | timedOut => exact ⟨h1, h2, upByOne_le _ h3, h4, h5⟩
  | reported =>
    simp only [Region.afterReport]
    split
    · exact ⟨h1, h2, h3, h4, h5⟩
    · exact ⟨Nat.min_le_left _ _, h2, h3, h4, h5⟩
  | fenced n hn => rw [g.fenced_eq]; exact ⟨le_rfl, h2, h3, h4, hn.trans hm⟩
  | retired n hn => exact Region.bounded_recordDiscard ⟨h1, h2, h3, h4, h5⟩ (hn.trans hm)
  | revived => exact ⟨Nat.zero_le _, h2, h3, h4, h5⟩
  | scrolled v => simp only [Region.scrolled]; split <;> exact ⟨h1, h2, h3, h4, h5⟩
  | cleared mask b =>
    simp only [Region.cleared]
    split
    · split <;> simp [Region.bounded, h1]
    · exact ⟨h1, h2, h3, h4, h5⟩
  | reset => simp [Region.bounded, Region.softReset]
  | _ => exact ⟨h1, h2, h3, h4, h5⟩

theorem Region.bounded.epoch (h : g.bounded) : g.epoch.bounded := by
  have offset : ∀ x : Region, x.bounded → x.changeOffset.bounded := fun x hx => by
    simp only [Region.changeOffset]
    split <;> exact hx
  simp only [Region.epoch]
  split
  · exact offset g h
  · split
    · exact Region.bounded_withScore (offset _ h) ((Nat.sub_le _ _).trans h.1)
    · exact ⟨h.1, upByOne_le _ h.2.1, h.2.2⟩
    all_goals exact h

theorem State.inRange_iff (s : State) : s.inRange ↔ s.metered ∧ ∀ k, ∀ g ∈ s.region? k, g.bounded := by
  simp only [State.inRange, State.metered, Region.bounded, and_assoc]

theorem State.Does.inRange (h : s.Does i t) (hs : s.inRange) : t.inRange := by
  rw [State.inRange_iff] at hs ⊢
  obtain ⟨hm, hg⟩ := hs
  have hq : s.queue.length ≤ 32 := hm.1.2.2.1
  exact ⟨h.metered hm, h.recorded.keeps (P := Region.bounded) (fun hc => hc.bounded hq) (fun _ h => h.epoch)
    (fun _ _ => by simp [Region.bounded, newRegion]) (fun _ _ _ => by simp [Region.bounded, Region.activated]) hg⟩

end Sys2Proof.Machine
end

section
/-! PROOFS. The counts of transactions (R2, R9, R62, R63): reader counts and draft writer count are the numbers of transactions that
entered them, and a held transaction is the youngest. -/

namespace Sys2Proof.Machine

open Relation

variable {s t u : State} {i : Instr} {m : Nat} {g g' : Region}

/-! ### What the counts look at -/

/-- Region and count of a transaction: all that the counts look at. -/
def Tx.key (x : Tx) : Option SlotNo × Option CountEntry := (x.region, x.count)

/-- The keys of the accepted transactions that have not completed. -/
def State.keys (s : State) : List (Option SlotNo × Option CountEntry) := (s.pTracker ++ s.sTracker).map Tx.key

/-- How many of these keys name this region and this count. -/
def keyCount (l : List (Option SlotNo × Option CountEntry)) (k : SlotNo) (e : CountEntry) : Nat := l.count (some k, some e)

theorem State.countedIn_eq (s : State) (k : SlotNo) (e : CountEntry) : s.countedIn k e = keyCount s.keys k e := by
  simp only [State.countedIn, keyCount, State.keys, List.count, List.countP_map]
  refine List.countP_congr fun x _ => ?_
  simp [Tx.key, Prod.ext_iff]

/-- The counts of the cycle items are those of the keys. -/
def Cycle.countsKeys (c : Cycle) (k : SlotNo) (l : List (Option SlotNo × Option CountEntry)) : Prop :=
  c.readersA = keyCount l k (.reader .a) ∧ c.readersB = keyCount l k (.reader .b) ∧ c.writers = keyCount l k .writer

/-- A transaction held OVERLAP or QUEUE has entered no count. -/
def Tx.entersLate (x : Tx) : Prop := ∀ reason ∈ x.heldFor, reason = .overlap ∨ reason = .queue → x.count = none

theorem State.transactionsCounted_iff (s : State) : s.transactionsCounted ↔
    (∀ k, ∀ g ∈ s.region? k, ∀ c ∈ g.cycle, c.countsKeys k s.keys) ∧
    (∀ q ∈ s.keys, q.2 ≠ none → ∃ k, q.1 = some k ∧ ∃ g ∈ s.region? k, g.cycle.isSome = true) ∧
    ∀ x ∈ s.pTracker, x.entersLate := by
  simp only [State.transactionsCounted, State.countedIn_eq, Cycle.countsKeys, Tx.entersLate]
  refine and_congr Iff.rfl (and_congr ?_ (forall₂_congr fun x _ => ?_))
  · simp only [State.keys, List.forall_mem_map]
    exact Iff.rfl
  · simp only [Option.mem_def, Tx.heldFor_eq_some_iff]
    exact ⟨fun h r ⟨a, l, hx⟩ => h r a l hx, fun h r a l hx => h r ⟨a, l, hx⟩⟩

/-- The trackers and the counts are in order. -/
def State.txsAgree (s : State) : Prop := s.heldIsYoungest ∧ s.transactionsCounted

/-! ### Calm changes -/

/-- A change of a transaction that keeps its key and begins no hold. -/
def Tx.Mild (f : Tx → Tx) : Prop := ∀ x, (f x).key = x.key ∧ ((f x).heldFor = none ∨ (f x).heldFor = x.heldFor)

/-- Both records have cycle items, with the same counts, or neither has. -/
def Region.sameCounts (g g' : Region) : Prop :=
  (g.cycle.isSome = true → g'.cycle.isSome = true) ∧
  ∀ c' ∈ g'.cycle, ∃ c ∈ g.cycle, c'.readersA = c.readersA ∧ c'.readersB = c.readersB ∧ c'.writers = c.writers

/-- The trackers change mildly and no count changes. -/
def State.Calm (s t : State) : Prop :=
  (∃ f, Tx.Mild f ∧ t.pTracker = s.pTracker.map f) ∧ (∃ f, Tx.Mild f ∧ t.sTracker = s.sTracker.map f) ∧
  State.records Region.sameCounts s t

theorem Tx.Mild.self : Tx.Mild id := fun _ => ⟨rfl, .inr rfl⟩

theorem Tx.Mild.comp {f f' : Tx → Tx} (h : Tx.Mild f) (h' : Tx.Mild f') : Tx.Mild (f' ∘ f) := fun x => by
  obtain ⟨h1, h2⟩ := h x
  obtain ⟨h3, h4⟩ := h' (f x)
  refine ⟨h3.trans h1, h4.elim .inl fun h4 => ?_⟩
  exact h2.elim (fun h2 => .inl (h4.trans h2)) fun h2 => .inr (h4.trans h2)

/-- A change of some transactions that keeps their keys and ends their holds. -/
theorem Tx.Mild.ite (p : Tx → Prop) [DecidablePred p] (f : Tx → Tx) (hk : ∀ x, (f x).key = x.key)
    (hh : ∀ x, (f x).heldFor = none ∨ (f x).heldFor = x.heldFor) : Tx.Mild fun x => if p x then f x else x := by
  intro x
  dsimp only
  split
  · exact ⟨hk x, hh x⟩
  · exact ⟨rfl, .inr rfl⟩

theorem Region.sameCounts_refl (g : Region) : g.sameCounts g := ⟨id, fun c hc => ⟨c, hc, rfl, rfl, rfl⟩⟩

theorem Region.sameCounts_trans {a b c : Region} (h : a.sameCounts b) (h' : b.sameCounts c) : a.sameCounts c := by
  refine ⟨h'.1 ∘ h.1, fun z hz => ?_⟩
  obtain ⟨y, hy, e1, e2, e3⟩ := h'.2 z hz
  obtain ⟨x, hx, e1', e2', e3'⟩ := h.2 y hy
  exact ⟨x, hx, e1.trans e1', e2.trans e2', e3.trans e3'⟩

theorem Region.sameCounts_of_cycle (h : g'.cycle = g.cycle) : g.sameCounts g' :=
  ⟨fun hs => h ▸ hs, fun c hc => ⟨c, h ▸ hc, rfl, rfl, rfl⟩⟩

theorem Region.sameCounts_modCycle (g : Region) {f : Cycle → Cycle}
    (hf : ∀ c, (f c).readersA = c.readersA ∧ (f c).readersB = c.readersB ∧ (f c).writers = c.writers) :
    g.sameCounts (g.modCycle f) := by
  refine ⟨by simp, fun c' hc' => ?_⟩
  simp only [Region.modCycle_cycle, Option.mem_map] at hc'
  obtain ⟨c, hc, rfl⟩ := hc'
  exact ⟨c, hc, hf c⟩

theorem Region.sameCounts_setLine (g : Region) (n : Nat) (l : LineState) : g.sameCounts (g.modCycle (·.setLine n l)) :=
  g.sameCounts_modCycle fun c => (c.setLine_keeps n l).2.2.2.2

theorem State.Calm.refl (s : State) : s.Calm s :=
  ⟨⟨id, .self, by simp⟩, ⟨id, .self, by simp⟩, fun _ => .refl Region.sameCounts_refl _⟩

theorem State.Calm.trans (h : s.Calm t) (h' : t.Calm u) : s.Calm u := by
  obtain ⟨⟨f, hf, ef⟩, ⟨e, he, ee⟩, hr⟩ := h
  obtain ⟨⟨f', hf', ef'⟩, ⟨e', he', ee'⟩, hr'⟩ := h'
  exact ⟨⟨f' ∘ f, hf.comp hf', by simp [ef', ef]⟩, ⟨e' ∘ e, he.comp he', by simp [ee', ee]⟩,
    fun k => (hr k).trans (r := Region.sameCounts) Region.sameCounts_trans (hr' k)⟩

/-- Nothing but records changes, and they keep their counts. -/
theorem State.Calm.of_records (hp : t.pTracker = s.pTracker) (hs : t.sTracker = s.sTracker)
    (hr : State.records Region.sameCounts s t) : s.Calm t :=
  ⟨⟨id, .self, by simp [hp]⟩, ⟨id, .self, by simp [hs]⟩, hr⟩

theorem State.Calm.of_table (hp : t.pTracker = s.pTracker) (hs : t.sTracker = s.sTracker) (ht : t.table = s.table) :
    s.Calm t := .of_records hp hs (.of_table Region.sameCounts_refl ht)

theorem State.Calm.modRegion (s : State) (k : SlotNo) (f : Region → Region) (h : ∀ g ∈ s.region? k, g.sameCounts (f g)) :
    s.Calm (s.modRegion k f) := .of_records rfl rfl (.modRegion Region.sameCounts_refl s k f h)

theorem State.Calm.setLine (s : State) (k : SlotNo) (n : Nat) (l : LineState) : s.Calm (s.modCycle k (·.setLine n l)) :=
  .modRegion s k _ fun g _ => g.sameCounts_setLine n l

theorem State.Calm.map (s : State) (port : Port) {f : Tx → Tx} (h : Tx.Mild f) :
    s.Calm (s.setTracker port ((s.tracker port).map f)) := by
  cases port
  · exact ⟨⟨f, h, rfl⟩, ⟨id, .self, by simp⟩, .of_table Region.sameCounts_refl rfl⟩
  · exact ⟨⟨id, .self, by simp⟩, ⟨f, h, rfl⟩, .of_table Region.sameCounts_refl rfl⟩

theorem State.Calm.modHeld (s : State) (f : Tx → Tx) (hk : ∀ x, (f x).key = x.key)
    (hh : ∀ x, (f x).heldFor = none ∨ (f x).heldFor = x.heldFor) : s.Calm (s.modHeld f) :=
  State.Calm.map s .p (.ite _ f hk hh)

theorem Tx.isHeld_iff (x : Tx) : x.isHeld = true ↔ x.heldFor ≠ none := by
  rw [ne_eq, Tx.heldFor_eq_none_iff, Bool.not_eq_false]

theorem Tx.Mild.isHeld {f : Tx → Tx} (h : Tx.Mild f) (x : Tx) (hx : x.isHeld = false) : (f x).isHeld = false := by
  rw [← Tx.heldFor_eq_none_iff] at hx ⊢
  exact (h x).2.elim (fun e => e) fun e => e.trans hx

/-- Calm changes keep trackers and counts in order. -/
theorem State.Calm.txsAgree (h : s.Calm t) (hs : s.txsAgree) : t.txsAgree := by
  obtain ⟨⟨f, hf, ef⟩, ⟨e, he, ee⟩, hr⟩ := h
  obtain ⟨⟨hy, hn⟩, hc⟩ := hs
  have hkeys : t.keys = s.keys := by
    simp only [State.keys, ef, ee, List.map_append, List.map_map]
    congr 1
    · exact List.map_congr_left fun x _ => (hf x).1
    · exact List.map_congr_left fun x _ => (he x).1
  refine ⟨⟨?_, ?_⟩, ?_⟩
  · rw [ef, ← List.map_dropLast]
    exact List.forall_mem_map.2 fun x hx => hf.isHeld x (hy x hx)
  · rw [ee]
    exact List.forall_mem_map.2 fun x hx => he.isHeld x (hn x hx)
  · rw [State.transactionsCounted_iff] at hc ⊢
    obtain ⟨h1, h2, h3⟩ := hc
    refine ⟨fun k g' hg' c' hc' => ?_, fun q hq hne => ?_, ?_⟩
    · obtain ⟨g, hg, -, hcounts⟩ := (hr k).exists_of_some_right hg'
      obtain ⟨c, hc, e1, e2, e3⟩ := hcounts c' hc'
      obtain ⟨h4, h5, h6⟩ := h1 k g hg c hc
      rw [hkeys]
      exact ⟨e1.trans h4, e2.trans h5, e3.trans h6⟩
    · obtain ⟨k, hk, g, hg, hcy⟩ := h2 q (hkeys ▸ hq) hne
      obtain ⟨g', hg', hsome, -⟩ := (hr k).exists_of_some hg
      exact ⟨k, hk, g', hg', hsome hcy⟩
    · rw [ef]
      simp only [List.mem_map, forall_exists_index, and_imp, forall_apply_eq_imp_iff₂]
      intro x hx reason hreason hor
      rcases (hf x).2 with hnone | hsame
      · simp [hnone] at hreason
      · have hkey := congrArg Prod.snd (hf x).1
        exact hkey.trans (h3 x hx reason (hsame ▸ hreason) hor)

/-! ### A transaction enters or leaves a count -/

theorem keyCount_append (l l' : List (Option SlotNo × Option CountEntry)) (k : SlotNo) (e : CountEntry) :
    keyCount (l ++ l') k e = keyCount l k e + keyCount l' k e := List.count_append

/-- A key that enters a count of a region with cycle items, and the record with that count one up. -/
theorem Cycle.countsKeys_enter {c : Cycle} {k : SlotNo} {l l' : List (Option SlotNo × Option CountEntry)}
    (h : c.countsKeys k l) (e : CountEntry) (hl : ∀ e', keyCount l' k e' = keyCount l k e' + if e' = e then 1 else 0) :
    (c.enter e).countsKeys k l' := by
  obtain ⟨h1, h2, h3⟩ := h
  simp only [Cycle.countsKeys, hl]
  cases e with
  | reader bank => cases bank <;> simp [Cycle.enter, h1, h2, h3]
  | writer => simp [Cycle.enter, h1, h2, h3]

theorem Cycle.countsKeys_leave {c : Cycle} {k : SlotNo} {l l' : List (Option SlotNo × Option CountEntry)}
    (h : c.countsKeys k l) (e : CountEntry) (hl : ∀ e', keyCount l k e' = keyCount l' k e' + if e' = e then 1 else 0) :
    (c.leave e).countsKeys k l' := by
  obtain ⟨h1, h2, h3⟩ := h
  simp only [hl] at h1 h2 h3
  cases e with
  | reader bank => cases bank <;> simp_all [Cycle.leave, Cycle.countsKeys]
  | writer => simp_all [Cycle.leave, Cycle.countsKeys]

/-- What enters or leaves a count of region `k` is no matter of the other regions. -/
theorem Cycle.countsKeys_congr {c : Cycle} {k : SlotNo} {l l' : List (Option SlotNo × Option CountEntry)}
    (h : c.countsKeys k l) (hl : ∀ e, keyCount l' k e = keyCount l k e) : c.countsKeys k l' := by
  simpa only [Cycle.countsKeys, hl] using h

theorem keyCount_singleton (q : Option SlotNo × Option CountEntry) (k : SlotNo) (e : CountEntry) :
    keyCount [q] k e = if q = (some k, some e) then 1 else 0 := by
  simp [keyCount, List.count_cons]

/-- The records of a state whose keys changed by one key of region `k` entering count `e`, with that count one up. -/
theorem State.transactionsCounted_enter {k : SlotNo} {e : CountEntry} (hc : s.transactionsCounted)
    (hcy : ∃ g ∈ s.region? k, g.cycle.isSome = true)
    (hr : ∀ j, t.region? j = (s.modCycle k (·.enter e)).region? j)
    (hkeys : ∀ j e', keyCount t.keys j e' = keyCount s.keys j e' + if j = k ∧ e' = e then 1 else 0)
    (hmem : ∀ q ∈ t.keys, q ∈ s.keys ∨ q.2 = none ∨ q.1 = some k) (hlate : ∀ x ∈ t.pTracker, x.entersLate) :
    t.transactionsCounted := by
  rw [State.transactionsCounted_iff] at hc ⊢
  obtain ⟨h1, h2, -⟩ := hc
  have hsome : ∀ j, (∃ g ∈ s.region? j, g.cycle.isSome = true) → ∃ g ∈ t.region? j, g.cycle.isSome = true := by
    rintro j ⟨g, hg, hgc⟩
    rw [hr, State.modCycle, s.region?_modRegion]
    split
    · subst j
      exact ⟨g.modCycle (·.enter e), by simp [Option.mem_def.1 hg], by simpa using hgc⟩
    · exact ⟨g, hg, hgc⟩
  refine ⟨fun j g' hg' c' hc' => ?_, fun q hq hne => ?_, hlate⟩
  · rw [hr, State.modCycle, s.region?_modRegion] at hg'
    split at hg'
    · subst j
      rw [Option.mem_map] at hg'
      obtain ⟨g, hg, rfl⟩ := hg'
      rw [Region.modCycle_cycle, Option.mem_map] at hc'
      obtain ⟨c, hcg, rfl⟩ := hc'
      exact Cycle.countsKeys_enter (h1 k g hg c hcg) e fun e' => by simp [hkeys]
    · rename_i hj
      exact Cycle.countsKeys_congr (h1 j g' hg' c' hc') fun e' => by simp [hkeys, hj]
  · rcases hmem q hq with hq | hq | hq
    · obtain ⟨j, hj, hg⟩ := h2 q hq hne
      exact ⟨j, hj, hsome j hg⟩
    · exact absurd hq hne
    · exact ⟨k, hq, hsome k hcy⟩

/-! ### The acts -/

theorem Region.sameCounts_drainEnd (g : Region) (queue : List QRecord) (k : SlotNo) : g.sameCounts (g.drainEnd queue k) := by
  simp only [Region.drainEnd]
  split
  · refine g.sameCounts_modCycle fun c => ?_
    split
    · rename_i h
      obtain ⟨pub, pending, e, -⟩ := c.endDrain_keeps queue k h.1
      rw [e]
      exact ⟨rfl, rfl, rfl⟩
    · exact ⟨rfl, rfl, rfl⟩
  · exact g.sameCounts_refl

theorem Region.sameCounts_sealedEntry (g : Region) (queue : List QRecord) (k : SlotNo) :
    g.sameCounts (g.sealedEntry queue k) := by
  simp only [Region.sealedEntry]
  split
  · refine g.sameCounts_modCycle fun c => ?_
    split <;> exact ⟨rfl, rfl, rfl⟩
  · exact g.sameCounts_refl

theorem State.calm_controllers (s : State) : s.Calm s.controllers :=
  .of_records rfl rfl (.mapRegions s _ fun k g _ =>
    Region.sameCounts_trans (g.sameCounts_drainEnd s.queue k) (Region.sameCounts_sealedEntry _ _ _))

theorem State.calm_replayDecide (s : State) (x : QRecord) : s.Calm (s.replayDecide x) := by
  rcases s.replayDecide_cases x with ⟨-, h⟩ | ⟨g, c, -, -, ⟨-, h⟩ | ⟨-, -, h⟩ | ⟨-, -, ⟨-, h⟩ | ⟨-, h⟩⟩⟩ <;> rw [h]
  · exact .refl s
  · exact .of_table rfl rfl rfl
  · refine .of_table ?_ ?_ (s.joinDemand_table _ _ _)
    all_goals
      simp only [State.joinDemand]
      split <;> rfl
  · exact .of_table rfl rfl rfl
  · exact State.Calm.setLine { s with
        replay := .issued x.region (replayWrite x g.defn c)
        demand := s.demand.filter fun e => !(e.region == x.region && e.line == x.line)
        readyNow := insertByRank .replay s.readyNow } x.region x.line .dirty

theorem State.calm_replaySelect (s : State) : s.Calm s.replaySelect := by
  rcases s.replaySelect_cases with h | ⟨x, -, -, -, h⟩ <;> rw [h]
  · exact .refl s
  · exact State.Calm.trans (t := { s with queue := markFirst s.eligible s.queue }) (.of_table rfl rfl rfl)
      (State.calm_replayDecide _ x)

theorem State.calm_replayIssue (s : State) : s.Calm s.replayIssue := by
  rcases s.replayIssue_cases with h | ⟨x, -, -, -, h⟩ <;> rw [h]
  · exact .refl s
  · exact s.calm_replayDecide x

theorem State.takeLine_trackers (s : State) (j : Fin 4) (k : SlotNo) (line : Nat) :
    (s.takeLine j k line).pTracker = s.pTracker ∧ (s.takeLine j k line).sTracker = s.sTracker := by
  simp only [State.takeLine]
  split
  · exact ⟨rfl, rfl⟩
  · simp [State.nowCopying_eq]

theorem State.calm_copyTake (s : State) : s.Calm s.copyTake := by
  rcases s.copyTake_cases with h | ⟨j, k, line, ptr, -, -, hw, h⟩ <;> rw [h]
  · exact .refl s
  · obtain ⟨g, c, hg, -, hc, -, hl⟩ := s.region_of_isWork hw
    obtain ⟨hp, hs⟩ := State.takeLine_trackers { s with rrPtr := ptr } j k line
    refine .of_records hp hs ?_
    have taken : State.records Region.sameCounts s (s.modCycle k (·.setLine line .copying)) :=
      .modRegion Region.sameCounts_refl s k _ fun g _ => g.sameCounts_setLine line .copying
    intro i
    have ht : ({ s with rrPtr := ptr }.takeLine j k line).region? i = (s.modCycle k (·.setLine line .copying)).region? i := by
      rw [State.region?, State.takeLine_table { s with rrPtr := ptr } j hg hc hl]
      rfl
    rw [ht]
    exact taken i

theorem State.calm_enginePresent (s : State) : s.Calm s.enginePresent := by
  rw [s.enginePresent_eq_presented]
  exact .of_table rfl rfl rfl

theorem State.calm_grant (s : State) : s.Calm s.grant := by
  have counted : ∀ x, s.Calm (s.countPassed x) := fun x => .of_table rfl rfl rfl
  rcases s.grant_cases with h | ⟨port, x, -, -, h⟩ | ⟨e, -, -, h⟩ | ⟨x, -, h⟩ <;> rw [h]
  · exact .refl s
  · refine (counted _).trans (.trans (State.Calm.map _ port (f := fun u =>
      if u.place = x.place ∧ u.state = .accepted then { u with state := .issued } else u) ?_) (.of_table rfl rfl rfl))
    exact .ite _ (fun u => { u with state := .issued }) (fun _ => rfl) fun _ => .inl rfl
  · refine (counted .engine).trans ?_
    simp only [State.grantEngine]
    split
    · exact .trans (.of_table rfl rfl rfl) (State.calm_enginePresent _)
    · exact .of_table rfl rfl rfl
  · exact counted x

theorem State.calm_softResetEnd (s : State) : s.Calm s.softResetEnd := by
  simp only [State.softResetEnd]
  split
  · exact .of_table rfl rfl rfl
  · exact .refl s

/-- A region with nothing left in flight has no transaction in a tracker, and no other region loses its cycle items (R40). -/
theorem State.txsAgree_of_returned (hp : t.pTracker = s.pTracker) (hs : t.sTracker = s.sTracker)
    (hr : ∀ k, recordsIn (fun g g' => g' = g ∨ (s.nothingLeft k = true ∧ g' = g.returned)) (s.region? k) (t.region? k))
    (h : s.txsAgree) : t.txsAgree := by
  obtain ⟨hy, hc⟩ := h
  refine ⟨by rw [State.heldIsYoungest, hp, hs]; exact hy, ?_⟩
  have hkeys : t.keys = s.keys := by rw [State.keys, State.keys, hp, hs]
  rw [State.transactionsCounted_iff] at hc ⊢
  obtain ⟨h1, h2, h3⟩ := hc
  rw [hkeys, hp]
  refine ⟨fun k g' hg' c' hc' => ?_, fun q hq hne => ?_, h3⟩
  · obtain ⟨g, hg, rfl | ⟨-, rfl⟩⟩ := (hr k).exists_of_some_right hg'
    · exact h1 k g' hg c' hc'
    · cases hc'
  · obtain ⟨k, hk, g, hg, hcy⟩ := h2 q hq hne
    obtain ⟨g', hg', rfl | ⟨hnothing, -⟩⟩ := (hr k).exists_of_some hg
    · exact ⟨k, hk, g', hg', hcy⟩
    · obtain ⟨x, hx, rfl⟩ := List.mem_map.1 hq
      exact absurd hk (((s.nothingLeft_iff k).1 hnothing).1 x hx)

theorem Region.returnIf_cases (g : Region) (b : Bool) :
    (g.returnIf b = g ∧ (b = true → g.life ≠ .retiring)) ∨ (g.life = .retiring ∧ b = true ∧ g.returnIf b = g.returned) := by
  simp only [Region.returnIf]
  split
  · rename_i h
    exact .inr ⟨h.1, h.2, rfl⟩
  · rename_i h
    exact .inl ⟨rfl, fun hb hl => h ⟨hl, hb⟩⟩

theorem Region.returned_of_returnIf (g : Region) (b : Bool) :
    g.returnIf b = g ∨ (b = true ∧ g.returnIf b = g.returned) :=
  (g.returnIf_cases b).imp (fun h => h.1) (fun h => h.2)

theorem State.txsAgree_returns (h : s.txsAgree) : s.returns.txsAgree := by
  have hp : s.returns.pTracker = s.pTracker := rfl
  have hs : s.returns.sTracker = s.sTracker := rfl
  refine State.txsAgree_of_returned hp hs (fun k => ?_) h
  rw [s.region?_returns]
  exact .map fun g _ => g.returned_of_returnIf _

/-- The youngest P transaction is the held one, when one is held. -/
theorem State.pTracker_of_heldTx {x : Tx} (h : s.heldIsYoungest) (hx : s.heldTx = some x) :
    ∃ older, s.pTracker = older ++ [x] ∧ ∀ y ∈ older, y.isHeld = false := by
  obtain ⟨hmem, hheld⟩ := s.heldTx_eq_some hx
  have hne : s.pTracker ≠ [] := List.ne_nil_of_mem hmem
  have hsplit := List.dropLast_append_getLast hne
  refine ⟨s.pTracker.dropLast, ?_, h.1⟩
  rw [← hsplit, List.mem_append] at hmem
  rcases hmem with hmem | hmem
  · simp [h.1 x hmem] at hheld
  · rw [List.mem_singleton.1 hmem, hsplit]

/-- What an update of the held transaction makes of the trackers, when the youngest is held. -/
theorem State.modHeld_youngest {x : Tx} {older : List Tx} (hp : s.pTracker = older ++ [x])
    (hold : ∀ y ∈ older, y.isHeld = false) (hx : x.isHeld = true) (f : Tx → Tx) :
    (s.modHeld f).pTracker = older ++ [f x] := by
  have : older.map (fun t => if t.isHeld = true then f t else t) = older := by
    conv_rhs => rw [← List.map_id older]
    exact List.map_congr_left fun u hu => by simp [hold u hu]
  simp [State.modHeld, hp, this, hx]

theorem State.txsAgree_holdRelease (h : s.txsAgree) : s.holdRelease.txsAgree := by
  rcases s.holdRelease_cases with e | ⟨x, k, g, c, reason, age, limit, hx, hk, hst, hg, hcy, hcase⟩
  · rwa [e]
  rcases hcase with ⟨-, -, e⟩ | ⟨-, -, e⟩ | ⟨rfl, -, bank, -, e⟩
  · rw [e]
    refine State.Calm.txsAgree (.trans (State.Calm.setLine s k _ .dirty) (State.Calm.modHeld _ _ ?_ ?_)) h
    · exact fun _ => rfl
    · exact fun _ => .inl rfl
  · rw [e]
    refine State.Calm.txsAgree (.trans (t := { s with queue := s.queue ++ [recordOf k g.defn c x.req] })
      (.of_table rfl rfl rfl) (State.Calm.modHeld _ _ ?_ ?_)) h
    · exact fun _ => rfl
    · exact fun _ => .inl rfl
  · obtain ⟨hy, hc⟩ := h
    obtain ⟨older, hp, hold⟩ := State.pTracker_of_heldTx hy hx
    have hheld := (s.heldTx_eq_some hx).2
    have hlate : x.count = none := by
      rw [State.transactionsCounted_iff] at hc
      exact hc.2.2 x (by simp [hp]) .overlap (by simp [Tx.heldFor, hst]) (.inl rfl)
    have hpt : s.holdRelease.pTracker = older ++ [{ x with
        state := .accepted, bank := some bank, phys := some (g.defn.bankAddr bank x.req.addr)
        count := some (.reader bank) }] := by
      rw [e]
      exact State.modHeld_youngest (s := s.modCycle k (·.enter (.reader bank))) hp hold hheld _
    have hsT : s.holdRelease.sTracker = s.sTracker := by rw [e]; rfl
    have hold' : ∀ y ∈ older, y.entersLate := fun y hy' => by
      intro reason hr
      rw [Tx.heldFor_eq_none_iff y |>.2 (hold y hy')] at hr
      cases hr
    refine ⟨⟨?_, by rw [hsT]; exact hy.2⟩, ?_⟩
    · rw [hpt, List.dropLast_concat]
      exact hold
    · refine State.transactionsCounted_enter (k := k) (e := .reader bank) hc ⟨g, hg, by simp [hcy]⟩ ?_ ?_ ?_ ?_
      · intro j; rw [e]; rfl
      · intro j e'
        simp only [State.keys, hpt, hp, hsT, List.map_append, List.map_cons, List.map_nil, keyCount_append,
          keyCount_singleton, Tx.key, hk, hlate]
        by_cases hj : k = j <;> by_cases he : (CountEntry.reader bank) = e' <;> simp [hj, he, eq_comm] <;> omega
      · intro q hq
        simp only [State.keys, hpt, hsT, List.map_append, List.mem_append, List.map_cons, List.map_nil,
          List.mem_singleton] at hq
        rcases hq with (hq | rfl) | hq
        · exact .inl (by simp only [State.keys, hp, List.map_append, List.mem_append]; exact .inl (.inl hq))
        · exact .inr (.inr hk)
        · exact .inl (by simp only [State.keys, List.map_append, List.mem_append]; exact .inr hq)
      · rw [hpt]
        intro y hy'
        rcases List.mem_append.1 hy' with hy' | hy'
        · exact hold' y hy'
        · rw [List.mem_singleton.1 hy']
          exact fun reason hr => nomatch hr

theorem State.txsAgree_settle (s : State) (h : s.txsAgree) : s.settle.txsAgree :=
  State.settle_induction s (P := State.txsAgree) (fun t h => t.calm_controllers.txsAgree h)
    (fun _ h => State.txsAgree_holdRelease h) (fun t h => t.calm_replaySelect.txsAgree h)
    (fun t h => t.calm_replayIssue.txsAgree h) (fun t h => t.calm_copyTake.txsAgree h)
    (fun t h => t.calm_enginePresent.txsAgree h) (fun t h => t.calm_grant.txsAgree h)
    (fun _ h => State.txsAgree_returns h) (fun t h => t.calm_softResetEnd.txsAgree h)
    (fun t h => State.Calm.txsAgree (s := t) (.of_table rfl rfl rfl) h) h

end Sys2Proof.Machine
end

section
/-! PROOFS. Every command keeps the counts of transactions (R2, R9, R62, R63). -/

namespace Sys2Proof.Machine

open Relation

variable {s t u : State} {i : Instr} {m : Nat} {g g' : Region}

/-! ### A transaction joins a tracker -/

/-- The trackers of `t` are those of `s` with `x` at the young end of one of them. -/
def State.Joins (s : State) (port : Port) (x : Tx) (t : State) : Prop :=
  t.pTracker = (if port = .p then s.pTracker ++ [x] else s.pTracker) ∧
  t.sTracker = (if port = .s then s.sTracker ++ [x] else s.sTracker)

theorem State.joins_addTx (s : State) (port : Port) (req : Request) (region : Option SlotNo) (bank : Option Bank)
    (phys : Option Nat) (state : TxState) (count : Option CountEntry) :
    s.Joins port { place := freePlace (s.tracker port), req := req.recorded, region := region, bank := bank, phys := phys
                   state := state, count := count } (s.addTx port req region bank phys state count) := by
  cases port <;> exact ⟨rfl, rfl⟩

theorem State.Joins.heldIsYoungest {port : Port} {x : Tx} (h : s.Joins port x t) (can : s.canAccept port)
    (hx : port = .s → x.isHeld = false) (hs : s.heldIsYoungest) : t.heldIsYoungest := by
  obtain ⟨hp, hsT⟩ := h
  obtain ⟨hy, hn⟩ := hs
  cases port with
  | p => simpa [State.heldIsYoungest, hp, hsT] using ⟨can.2.2.2 rfl, hn⟩
  | s =>
    refine ⟨by simpa [hp] using hy, ?_⟩
    rw [hsT, if_pos rfl]
    exact List.forall_mem_append.2 ⟨hn, by simpa using hx rfl⟩

theorem State.Joins.keyCount_eq {port : Port} {x : Tx} (h : s.Joins port x t) (k : SlotNo) (e : CountEntry) :
    keyCount t.keys k e = keyCount s.keys k e + if x.region = some k ∧ x.count = some e then 1 else 0 := by
  obtain ⟨hp, hs⟩ := h
  have single : keyCount [x.key] k e = if x.region = some k ∧ x.count = some e then 1 else 0 := by
    simp [keyCount_singleton, Tx.key]
  cases port <;> simp only [State.keys, hp, hs, if_true, reduceCtorEq, if_false, List.map_append, List.map_cons,
    List.map_nil, keyCount_append, single] <;> omega

theorem State.Joins.mem_keys {port : Port} {x : Tx} (h : s.Joins port x t) {q : Option SlotNo × Option CountEntry}
    (hq : q ∈ t.keys) : q ∈ s.keys ∨ q = x.key := by
  obtain ⟨hp, hs⟩ := h
  simp only [State.keys, hp, hs, List.map_append, List.mem_append] at hq ⊢
  cases port with
  | p =>
    simp only [if_true, reduceCtorEq, if_false, List.map_append, List.mem_append, List.map_cons, List.map_nil,
      List.mem_singleton] at hq
    tauto
  | s =>
    simp only [if_true, reduceCtorEq, if_false, List.map_append, List.mem_append, List.map_cons, List.map_nil,
      List.mem_singleton] at hq
    tauto

theorem State.Joins.entersLate {port : Port} {x : Tx} (h : s.Joins port x t) (hs : ∀ y ∈ s.pTracker, y.entersLate)
    (hx : x.entersLate) : ∀ y ∈ t.pTracker, y.entersLate := by
  rw [h.1]
  split
  · exact List.forall_mem_append.2 ⟨hs, by simpa using hx⟩
  · exact hs

/-- A transaction that enters no count joins. -/
theorem State.Joins.txsAgree {port : Port} {x : Tx} (h : s.Joins port x t) (can : s.canAccept port)
    (hx : port = .s → x.isHeld = false) (hc : x.count = none) (ht : t.table = s.table) (hs : s.txsAgree) : t.txsAgree := by
  obtain ⟨hy, hcs⟩ := hs
  refine ⟨h.heldIsYoungest can hx hy, ?_⟩
  rw [State.transactionsCounted_iff] at hcs ⊢
  obtain ⟨h1, h2, h3⟩ := hcs
  have hr : ∀ k, t.region? k = s.region? k := fun k => by rw [State.region?, ht]; rfl
  refine ⟨fun k g hg c hcy => ?_, fun q hq hne => ?_, h.entersLate h3 fun _ _ _ => hc⟩
  · exact Cycle.countsKeys_congr (h1 k g (hr k ▸ hg) c hcy) fun e => by simp [h.keyCount_eq, hc]
  · rcases h.mem_keys hq with hq | rfl
    · simpa only [hr] using h2 q hq hne
    · exact absurd hc hne

/-- A transaction joins and enters a count of a region with cycle items. -/
theorem State.Joins.txsAgree_enter {port : Port} {x : Tx} {k : SlotNo} {e : CountEntry} (h : s.Joins port x t)
    (can : s.canAccept port) (hx : port = .s → x.isHeld = false) (hk : x.region = some k) (hc : x.count = some e)
    (hlate : x.entersLate) (hcy : ∃ g ∈ s.region? k, g.cycle.isSome = true)
    (ht : t.table = (s.modCycle k (·.enter e)).table) (hs : s.txsAgree) : t.txsAgree := by
  obtain ⟨hy, hcs⟩ := hs
  refine ⟨h.heldIsYoungest can hx hy, State.transactionsCounted_enter (e := e) hcs hcy ?_ ?_ ?_ ?_⟩
  · exact fun j => by rw [State.region?, ht]; rfl
  · intro j e'
    simp [h.keyCount_eq, hk, hc, eq_comm]
  · intro q hq
    rcases h.mem_keys hq with hq | rfl
    · exact .inl hq
    · exact .inr (.inr hk)
  · exact h.entersLate ((State.transactionsCounted_iff s).1 hcs).2.2 hlate

theorem Tx.entersLate_of_not_held {x : Tx} (h : x.isHeld = false) : x.entersLate := by
  intro reason hr
  rw [(Tx.heldFor_eq_none_iff x).2 h] at hr
  cases hr

theorem Region.modCycle_modCycle (g : Region) (f f' : Cycle → Cycle) :
    (g.modCycle f).modCycle f' = g.modCycle fun c => f' (f c) := by
  simp only [Region.modCycle, Option.map_map]
  rfl

theorem State.txsAgree_accept {port : Port} {req : Request} (can : s.canAccept port) (h : s.txsAgree) :
    (s.accept port req (s.resolve port req)).txsAgree := by
  have resolves := s.resolves port req
  generalize s.resolve port req = res at resolves
  cases resolves with
  | boundary => exact (s.joins_addTx port req _ _ _ _ _).txsAgree can (fun _ => rfl) rfl (s.addTx_table ..) h
  | unmatchedRefused =>
    exact State.Calm.txsAgree (.of_table rfl rfl rfl)
      ((s.joins_addTx port req _ _ _ _ _).txsAgree can (fun _ => rfl) rfl (s.addTx_table ..) h)
  | passed => exact (s.joins_addTx port req _ _ _ _ _).txsAgree can (fun _ => rfl) rfl (s.addTx_table ..) h
  | refused k g _ =>
    exact State.Calm.txsAgree (.modRegion _ k Region.countRefused fun g _ => Region.sameCounts_of_cycle rfl)
      ((s.joins_addTx port req _ _ _ _ _).txsAgree can (fun _ => rfl) rfl (s.addTx_table ..) h)
  | fenced k g _ => exact (s.joins_addTx port req _ _ _ _ _).txsAgree can (fun _ => rfl) rfl (s.addTx_table ..) h
  | single k g phys _ _ _ =>
    exact (s.joins_addTx port req _ _ _ _ _).txsAgree can (fun _ => rfl) rfl (s.addTx_table ..) h
  | read k g c bank phys found _ cycle _ =>
    have joins := s.joins_addTx port req (some k) (some bank) (some phys) .accepted (some (.reader bank))
    refine State.Joins.txsAgree_enter (t := (s.addTx port req _ _ _ _ _).enterCount k _) ⟨joins.1, joins.2⟩ can
      (fun _ => rfl) rfl rfl (Tx.entersLate_of_not_held rfl) ⟨g, found, by simp [cycle]⟩ ?_ h
    simp only [State.enterCount, State.modCycle_table, State.region?, s.addTx_table]
  | draftWrite k g c phys onP found _ cycle =>
    have calm : s.Calm (s.modCycle k (·.setLine (g.defn.lineOf req.addr) .dirty)) := .setLine s k _ .dirty
    have joins := s.joins_addTx port req (some k) (some c.draft) (some phys) .accepted (some .writer)
    refine State.Joins.txsAgree_enter (s := s.modCycle k (·.setLine (g.defn.lineOf req.addr) .dirty))
      (t := s.accept port req _) ⟨joins.1, joins.2⟩ can (fun _ => rfl) rfl rfl (Tx.entersLate_of_not_held rfl)
      ⟨g.modCycle (·.setLine (g.defn.lineOf req.addr) .dirty), by simp [State.modCycle, found], by simp [cycle]⟩ ?_
      (calm.txsAgree h)
    simp only [State.accept, State.modCycle, State.modRegion, State.putRegion, State.undemand, State.region?,
      s.addTx_table, Vector.set_set, Fin.getElem_fin, Vector.getElem_set_self, Option.map_map]
    congr 2
    exact funext fun g => (g.modCycle_modCycle (·.setLine _ .dirty) (·.enter .writer)).symm
  | holdWrite k g c reason onP found _ cycle _ _ hline =>
    subst onP
    have joins := s.joins_addTx .p req (some k) (some c.draft) none (s.newHold reason) (some .writer)
    have held : ((s.addTx .p req (some k) (some c.draft) none (s.newHold reason) (some .writer)).modCycle k
        (·.enter .writer)).txsAgree := by
      refine State.Joins.txsAgree_enter ⟨joins.1, joins.2⟩ can (fun e => nomatch e) rfl rfl ?_ ⟨g, found, by simp [cycle]⟩ ?_ h
      · intro r hr hor
        cases hr
        rcases hline with ⟨rfl, -⟩ | ⟨rfl, -⟩ <;> rcases hor with hor | hor <;> cases hor
      · simp only [State.modCycle_table, State.region?, s.addTx_table]
    simp only [State.accept]
    split
    · refine State.Calm.txsAgree (.of_table ?_ ?_ (State.joinDemand_table _ _ _ _)) held
      all_goals
        simp only [State.joinDemand]
        split <;> rfl
    · exact held
  | holdQueue k g c onP =>
    subst onP
    exact (s.joins_addTx .p req _ _ _ _ _).txsAgree can (fun e => nomatch e) rfl (s.addTx_table ..) h
  | holdOverlap k g c onP =>
    subst onP
    exact (s.joins_addTx .p req _ _ _ _ _).txsAgree can (fun e => nomatch e) rfl (s.addTx_table ..) h
  | posted k g c =>
    have calm : s.Calm { s with queue := s.queue ++ [recordOf k g.defn c req] } := .of_table rfl rfl rfl
    exact (State.joins_addTx { s with queue := s.queue ++ [recordOf k g.defn c req] } port req _ _ _ _ _).txsAgree can
      (fun _ => rfl) rfl (State.addTx_table ..) (calm.txsAgree h)

/-! ### A transaction completes -/

theorem State.keyCount_completed {port : Port} {x : Tx} {rest : List Tx} (front : s.tracker port = x :: rest) (k : SlotNo)
    (e : CountEntry) :
    keyCount s.keys k e =
      keyCount (s.setTracker port rest).keys k e + if x.region = some k ∧ x.count = some e then 1 else 0 := by
  have cons : ∀ l : List (Option SlotNo × Option CountEntry), keyCount (x.key :: l) k e =
      keyCount l k e + if x.region = some k ∧ x.count = some e then 1 else 0 := fun l => by
    simp [keyCount, List.count_cons, Tx.key]
  cases port <;> simp only [State.tracker] at front <;>
    simp only [State.keys, State.setTracker, front, List.map_append, List.map_cons, keyCount_append, cons] <;> omega

theorem State.mem_keys_of_completed {port : Port} {x : Tx} {rest : List Tx} (front : s.tracker port = x :: rest)
    {q : Option SlotNo × Option CountEntry} (hq : q ∈ (s.setTracker port rest).keys) : q ∈ s.keys := by
  cases port <;> simp only [State.tracker] at front <;>
    simp only [State.keys, State.setTracker, front, List.map_append, List.map_cons, List.mem_append, List.mem_cons] at hq ⊢ <;>
    tauto

theorem State.heldIsYoungest_completed {port : Port} {x : Tx} {rest : List Tx} (front : s.tracker port = x :: rest)
    (h : s.heldIsYoungest) : (s.setTracker port rest).heldIsYoungest := by
  obtain ⟨hy, hn⟩ := h
  cases port with
  | p =>
    simp only [State.tracker] at front
    refine ⟨fun y hy' => hy y ?_, hn⟩
    rw [front]
    cases rest with
    | nil => simp [State.setTracker] at hy'
    | cons z zs => exact List.mem_cons_of_mem _ hy'
  | s =>
    simp only [State.tracker] at front
    exact ⟨hy, fun y hy' => hn y (front ▸ List.mem_cons_of_mem _ hy')⟩

theorem State.txsAgree_taken {port : Port} {x : Tx} {rest : List Tx} (front : s.tracker port = x :: rest) (h : s.txsAgree) :
    ((s.setTracker port rest).leaveCount x).txsAgree := by
  obtain ⟨hy, hc⟩ := h
  have hy' := State.heldIsYoungest_completed front hy
  rw [State.transactionsCounted_iff] at hc
  obtain ⟨h1, h2, h3⟩ := hc
  have hlate : ∀ y ∈ (s.setTracker port rest).pTracker, y.entersLate := by
    cases port with
    | p => exact fun y hy => h3 y ((show s.pTracker = _ from front) ▸ List.mem_cons_of_mem _ hy)
    | s => exact h3
  have hreg : ∀ k, (s.setTracker port rest).region? k = s.region? k := fun k => by
    rw [State.region?, State.setTracker_table]; rfl
  have hx : x.key ∈ s.keys := by
    cases port <;> simp only [State.tracker] at front <;> simp [State.keys, front]
  match hcount : x.count with
  | none =>
    have e : (s.setTracker port rest).leaveCount x = s.setTracker port rest := by
      simp [State.leaveCount, hcount]
    rw [e]
    refine ⟨hy', (State.transactionsCounted_iff _).2 ⟨fun k g hg c hcy => ?_, fun q hq hne => ?_, hlate⟩⟩
    · refine Cycle.countsKeys_congr (h1 k g (hreg k ▸ hg) c hcy) fun e => ?_
      simp [State.keyCount_completed front, hcount]
    · simpa only [hreg] using h2 q (State.mem_keys_of_completed front hq) hne
  | some e =>
    obtain ⟨k, hk, g, hg, hcy⟩ := h2 x.key hx (by simp [Tx.key, hcount])
    have hk' : x.region = some k := hk
    have eq : (s.setTracker port rest).leaveCount x = (s.setTracker port rest).modCycle k (·.leave e) := by
      simp [State.leaveCount, hcount, hk']
    rw [eq]
    refine ⟨hy', (State.transactionsCounted_iff _).2 ⟨fun j g' hg' c' hc' => ?_, fun q hq hne => ?_, hlate⟩⟩
    · rw [State.modCycle, State.region?_modRegion] at hg'
      split at hg'
      · subst j
        simp only [hreg, Option.mem_map] at hg'
        obtain ⟨g1, hg1, rfl⟩ := hg'
        rw [Region.modCycle_cycle, Option.mem_map] at hc'
        obtain ⟨c, hc, rfl⟩ := hc'
        exact Cycle.countsKeys_leave (h1 k g1 hg1 c hc) e fun e' => by
          simp only [State.keyCount_completed front, hk', hcount, Option.some.injEq, true_and, eq_comm]
          rfl
      · rename_i hj
        refine Cycle.countsKeys_congr (h1 j g' (hreg j ▸ hg') c' hc') fun e' => ?_
        have : ¬ k = j := fun e => hj e.symm
        simp only [State.keyCount_completed front, hk', Option.some.injEq, this, false_and, if_false, Nat.add_zero]
        rfl
    · obtain ⟨j, hj, g1, hg1, hcy1⟩ := h2 q (State.mem_keys_of_completed front hq) hne
      refine ⟨j, hj, ?_⟩
      rw [State.modCycle, State.region?_modRegion, hreg, hreg]
      split
      · subst j
        exact ⟨g1.modCycle (·.leave e), by simp [Option.mem_def.1 hg1], by simpa using hcy1⟩
      · exact ⟨g1, hg1, hcy1⟩

/-! ### The other commands -/

theorem State.calm_ageHold (s : State) : s.Calm s.ageHold := by
  refine .modHeld s _ (fun x => ?_) fun x => ?_
  · split <;> rfl
  · split
    · rename_i h
      exact .inr (by simp [Tx.heldFor, h])
    · exact .inr rfl
    · exact .inr rfl
    · exact .inr rfl

theorem State.calm_holdExpiry (s : State) : s.Calm s.holdExpiry := by
  have expired : s.Calm (s.modHeld fun t => { t with state := .done .timeout [] }) :=
    .modHeld s _ (fun _ => rfl) fun _ => .inl rfl
  simp only [State.holdExpiry]
  split
  · exact .refl s
  · split
    · split
      · exact expired.trans (.modRegion _ _ Region.countTimeout fun g _ => Region.sameCounts_of_cycle rfl)
      · exact expired
    · exact .refl s

theorem State.calm_answerHeldOf (s : State) (k : SlotNo) (status : Status) : s.Calm (s.answerHeldOf k status) :=
  State.Calm.map s .p (.ite _ (fun x => { x with state := .done status [] }) (fun _ => rfl) fun _ => .inl rfl)

theorem Region.sameCounts_fenced (g : Region) (n : Nat) : g.sameCounts (g.fenced n) := by
  have cy : (g.fenced n).cycle = (g.modCycle fun c => { c.giveUpCopies with pub := .halted, sealPending := false }).cycle := by
    rw [Region.fenced, (Region.recordDiscard_keeps _ n).2.2.1]
    rfl
  exact Region.sameCounts_trans
    (g.sameCounts_modCycle (f := fun c => { c.giveUpCopies with pub := .halted, sealPending := false })
      fun c => ⟨rfl, rfl, rfl⟩) (Region.sameCounts_of_cycle cy)

theorem State.calm_fence (s : State) (k : SlotNo) : s.Calm (s.fence k) :=
  (State.Calm.modRegion s k _ fun g _ => g.sameCounts_fenced (s.unissuedRecords k)).trans
    (.trans (.of_table rfl rfl rfl) (State.calm_answerHeldOf _ k .fenced))

theorem State.calm_reportError (s : State) (k : SlotNo) (third : Bool) : s.Calm (s.reportError k third) := by
  have report : s.Calm (s.modRegion k Region.reported) := .modRegion s k _ fun g _ => by
    rw [g.reported_eq]
    exact Region.sameCounts_of_cycle g.afterReport_keeps.2.2.1
  simp only [State.reportError]
  split
  · exact .refl s
  · split
    · exact report.trans (State.calm_fence _ k)
    · exact report

theorem State.calm_portResponse (s : State) (port : Port) (place : Nat) (status : MStatus) (data : List Word) :
    s.Calm (s.portResponse port place status data) := by
  simp only [State.portResponse]
  split
  · exact .refl s
  · rename_i x _
    have settled : s.Calm (s.setTracker port ((s.tracker port).map fun u =>
        if u.issuedIn place then { u with state := .done (portStatus status) (readData u.req status data) } else u)) :=
      .map s port (.ite _ _ (fun _ => rfl) fun _ => .inl rfl)
    cases status with
    | okay => exact settled
    | error =>
      refine settled.trans ?_
      simp only [State.upstreamError]
      split
      · exact State.calm_reportError _ _ _
      · exact .of_table rfl rfl rfl

theorem State.calm_slotResponse (s : State) (j : Fin 4) (status : MStatus) (data : List Word) :
    s.Calm (s.slotResponse j status data) := by
  simp only [State.slotResponse]
  split
  · exact .refl s
  · exact .of_table rfl rfl rfl
  · rename_i x _
    split
    · exact State.Calm.setLine (s.setSlot j .free) x.region x.line .stale
    · split
      · exact .of_table rfl rfl rfl
      · exact State.Calm.setLine (s.setSlot j .free) x.region x.line .sync
      · simp only [State.copyError]
        split
        · exact (s.calm_reportError _ _).trans (.of_table rfl rfl rfl)
        · exact s.calm_reportError _ _
        · exact s.calm_reportError _ _

theorem State.calm_replayResponse (s : State) (status : MStatus) : s.Calm (s.replayResponse status) := by
  have removed : s.Calm { s with replay := .idle, queue := s.queue.filter fun r => !r.selected } := .of_table rfl rfl rfl
  simp only [State.replayResponse]
  split
  · exact .refl s
  · exact .refl s
  · split
    · cases status with
      | okay => exact removed
      | error => exact removed.trans (State.calm_reportError _ _ _)
    · exact removed

theorem State.calm_handOver (s : State) (o : Owner) (status : MStatus) (data : List Word) :
    s.Calm (s.handOver o status data) := by
  match o with
  | .port port place => exact s.calm_portResponse port place status data
  | .engine (.slot j) => exact s.calm_slotResponse j status data
  | .engine .replay => exact s.calm_replayResponse status

/-- A record without cycle items is replaced by one without counted transactions. -/
theorem State.txsAgree_putRegion (h : s.txsAgree) (k : SlotNo) (hold : ∀ g ∈ s.region? k, g.cycle = none)
    (new : Option Region) (hnew : ∀ g ∈ new, ∀ c ∈ g.cycle, c.readersA = 0 ∧ c.readersB = 0 ∧ c.writers = 0) :
    (s.putRegion k new).txsAgree := by
  obtain ⟨hy, hc⟩ := h
  refine ⟨hy, ?_⟩
  rw [State.transactionsCounted_iff] at hc ⊢
  obtain ⟨h1, h2, h3⟩ := hc
  have hkeys : (s.putRegion k new).keys = s.keys := rfl
  have absent : ∀ e, keyCount s.keys k e = 0 := fun e => List.count_eq_zero.2 fun hmem => by
    obtain ⟨j, hj, g, hg, hcy⟩ := h2 _ hmem (by simp)
    cases hj
    simp [hold g hg] at hcy
  refine ⟨fun j g hg c hcy => ?_, fun q hq hne => ?_, h3⟩
  · rw [s.region?_putRegion] at hg
    split at hg
    · subst j
      obtain ⟨ha, hb, hw⟩ := hnew g hg c hcy
      simp [Cycle.countsKeys, hkeys, absent, ha, hb, hw]
    · exact h1 j g hg c hcy
  · obtain ⟨j, hj, g, hg, hcy⟩ := h2 q hq hne
    refine ⟨j, hj, g, ?_, hcy⟩
    rwa [s.region?_putRegion_ne k j new]
    rintro rfl
    simp [hold g hg] at hcy

/-- A DEFINED region has no cycle items (Table 2-2). -/
theorem State.cycle_of_defined (h : s.wellPlaced) {k : SlotNo} (hg : s.region? k = some g) (hl : g.life = .defined) :
    g.cycle = none := by
  have := (h k g hg).1
  simpa [hl] using this

theorem State.calm_sealGroups (s : State) (groups : Fin 4 → Bool) : s.Calm (s.sealGroups groups) :=
  .of_records (s.mapRegions_pTracker _) (s.mapRegions_sTracker _) fun k => by
    rw [s.region?_sealGroups]
    refine .map fun g _ => ?_
    split
    · refine g.sameCounts_modCycle fun c => ?_
      obtain ⟨pub, pending, e, -⟩ := c.takeSeal_keeps s.queue k
      rw [e]
      exact ⟨rfl, rfl, rfl⟩
    · exact g.sameCounts_refl

theorem Region.sameCounts_epoch (g : Region) : g.sameCounts g.epoch := by
  match hc : g.cycle with
  | none =>
    refine Region.sameCounts_of_cycle ?_
    simp only [Region.epoch, hc]
    exact g.changeOffset_keeps.2.2.1.trans hc
  | some c =>
    refine ⟨fun _ => by rw [Region.epoch_cycle hc]; rfl, fun c' hc' => ⟨c, hc, ?_⟩⟩
    rw [Region.epoch_cycle hc, Option.mem_some_iff] at hc'
    subst hc'
    split <;> exact ⟨rfl, rfl, rfl⟩

theorem State.txsAgree_beginSoftReset (s : State) : s.beginSoftReset.txsAgree := by
  have quiet : ∀ l : List Tx, ∀ y ∈ l.map Tx.answeredReset, y.isHeld = false ∧ y.count = none := fun l =>
    List.forall_mem_map.2 fun x _ => ⟨rfl, rfl⟩
  refine ⟨⟨fun y hy => (quiet s.pTracker y (List.dropLast_subset _ hy)).1, fun y hy => (quiet s.sTracker y hy).1⟩, ?_⟩
  rw [State.transactionsCounted_iff]
  refine ⟨fun k g hg c hc => ?_, fun q hq hne => ?_, fun y hy _ _ _ => (quiet s.pTracker y hy).2⟩
  · have hr : s.beginSoftReset.region? k = (s.region? k).map Region.softReset := by
      simp [State.beginSoftReset, State.region?]
    rw [hr, Option.mem_map] at hg
    obtain ⟨g, -, rfl⟩ := hg
    cases hc
  · obtain ⟨y, hy, rfl⟩ := List.mem_map.1 hq
    rcases List.mem_append.1 hy with hy | hy
    · exact absurd (quiet _ y hy).2 hne
    · exact absurd (quiet _ y hy).2 hne

theorem State.calm_retireRegion (s : State) (k : SlotNo) : s.Calm (s.retireRegion k) := by
  have emptied : ∀ u : State, u.Calm (((u.dropRecords k).undemandRegion k).markEnding k) := fun _ => .of_table rfl rfl rfl
  have retired := State.Calm.modRegion s k
    (fun g => ({ g with life := .retiring } : Region).recordDiscard (s.unissuedRecords k))
    fun g _ => Region.sameCounts_of_cycle (Region.recordDiscard_keeps _ _).2.2.1
  exact (retired.trans (emptied _)).trans (State.calm_answerHeldOf _ k .refused)

theorem State.calm_answer (s : State) (n : Nat) (r : Result) (d : List Byte) : s.Calm (s.answer n r d) :=
  .of_table rfl rfl rfl

theorem State.Does.txsAgree (h : s.Does i t) (hw : s.wellPlaced) (hs : s.txsAgree) : t.txsAgree := by
  have calmly : ∀ {u : State}, s.Calm u → u.txsAgree := fun hu => hu.txsAgree hs
  cases h with
  | idle => exact hs
  | link => exact calmly (.of_table rfl rfl rfl)
  | answered port req can => exact State.txsAgree_accept can hs
  | accepted port req can => exact State.txsAgree_settle _ (State.txsAgree_accept can hs)
  | taken port x rest front => exact State.txsAgree_settle _ (State.txsAgree_taken front hs)
  | holdRelease => exact State.txsAgree_holdRelease hs
  | advance =>
    exact calmly ((State.Calm.of_table (t := { s with timeBase := s.timeBase + 1 }) rfl rfl rfl).trans
      ((State.calm_ageHold _).trans (State.calm_holdExpiry _)))
  | holdExpiry => exact calmly s.calm_holdExpiry
  | grant => exact calmly s.calm_grant
  | memoryTakes => exact State.txsAgree_settle _ (calmly (.of_table rfl rfl rfl))
  | mResponse status data o rest =>
    exact State.txsAgree_settle _ (calmly
      ((State.Calm.of_table (t := { s with outstanding := rest }) rfl rfl rfl).trans (State.calm_handOver _ _ _ _)))
  | copyTake => exact calmly (s.calm_copyTake.trans (.of_table rfl rfl rfl))
  | replaySelect => exact calmly (s.calm_replaySelect.trans (.of_table rfl rfl rfl))
  | replayIssue => exact calmly (s.calm_replayIssue.trans (.of_table rfl rfl rfl))
  | sealedEntry k => exact calmly (.modRegion s k _ fun g _ => g.sameCounts_sealedEntry _ _)
  | drainEnd k => exact calmly (.modRegion s k _ fun g _ => g.sameCounts_drainEnd _ _)
  | returnToDefined k =>
    refine State.txsAgree_of_returned (s := s) rfl rfl (fun j => ?_) hs
    rw [s.region?_modRegion]
    split
    · subst j
      exact recordsIn.map fun g _ => g.returned_of_returnIf _
    · exact recordsIn.refl (fun _ => .inl rfl) _
  | sealLine line => exact calmly (s.calm_sealGroups _)
  | sealMask b mask => exact calmly ((s.calm_sealGroups _).trans (State.calm_answer _ _ _ _))
  | epoch source =>
    refine State.txsAgree_settle _ (calmly (.of_records (s.mapRegions_pTracker _) (s.mapRegions_sTracker _) (.mapRegions s _ fun k g _ => ?_)))
    split
    · exact g.sameCounts_epoch
    · exact g.sameCounts_refl
  | define b p k slot free =>
    refine (State.calm_answer _ _ _ _).txsAgree (State.txsAgree_putRegion hs k (by simp [free]) _ ?_)
    rintro g ⟨⟩ c ⟨⟩
  | undefine b k g slot found life =>
    refine (State.calm_answer _ _ _ _).txsAgree (State.txsAgree_putRegion hs k ?_ none (by simp))
    exact fun g' hg' => Option.some.inj (found.symm.trans hg') ▸ State.cycle_of_defined hw found life
  | activate _ matched k g row found life =>
    refine State.txsAgree_settle _ ((State.calm_answer _ _ _ _).txsAgree (State.txsAgree_putRegion hs k ?_ _ ?_))
    · exact fun g' hg' => Option.some.inj (found.symm.trans hg') ▸ State.cycle_of_defined hw found life
    · rintro _ ⟨⟩ c hc
      obtain ⟨_, -, rfl⟩ := Option.map_eq_some_iff.1 hc
      exact ⟨rfl, rfl, rfl⟩
  | retire b k g found life =>
    exact State.txsAgree_settle _ ((State.calm_answer _ _ _ _).txsAgree (calmly (s.calm_retireRegion k)))
  | revive b k g found ok =>
    refine State.txsAgree_settle _ ((State.calm_answer _ _ _ _).txsAgree (calmly ?_))
    exact .modRegion s k _ fun g _ => Region.sameCounts_trans (Region.sameCounts_of_cycle rfl)
      (Region.sameCounts_modCycle _ fun _ => ⟨rfl, rfl, rfl⟩)
  | scroll b v k g =>
    refine calmly ((State.Calm.modRegion s k (·.scrolled v.toNat) fun g _ => Region.sameCounts_of_cycle ?_).trans
      (State.calm_answer _ _ _ _))
    simp only [Region.scrolled]
    split <;> rfl
  | setStep b v k g =>
    exact calmly ((State.Calm.modRegion s k
      (fun g => { g with rot := g.rot.map fun x => { x with step := v.toNat } })
      fun g _ => Region.sameCounts_of_cycle rfl).trans (State.calm_answer _ _ _ _))
  | clear b mask options k g =>
    exact calmly ((State.Calm.modRegion s k _ fun g _ => Region.sameCounts_of_cycle (g.cleared_keeps _ _).2.2.1).trans
      (State.calm_answer _ _ _ _))
  | policy => exact calmly (.of_table rfl rfl rfl)
  | softreset =>
    exact State.txsAgree_settle _ ((State.calm_answer _ _ _ _).txsAgree s.txsAgree_beginSoftReset)
  | softResetEnd => exact calmly s.calm_softResetEnd
  | hardReset =>
    refine ⟨⟨by simp [State.hardReset, State.reset], by simp [State.hardReset, State.reset]⟩, ?_⟩
    rw [State.transactionsCounted_iff]
    refine ⟨fun k g hg => ?_, by simp [State.keys, State.hardReset, State.reset], by simp [State.hardReset, State.reset]⟩
    simp [s.hardReset_region?] at hg

/-- Settles O60: over every effect a command can have, from the trackers' keys (region and count) alone. -/
theorem everyStepCountsTheTransactions : Obligations.EveryStepCountsTheTransactions := by
  unfold Obligations.EveryStepCountsTheTransactions
  intro s t hw hy hc hstep
  obtain ⟨rest, i, hdoes⟩ := State.does_of_step hstep
  exact hdoes.txsAgree (s := { s with pending := rest }) hw ⟨hy, hc⟩

end Sys2Proof.Machine
end

section
/-! PROOFS. The block, the resets, and the common form of the link's commands: while RESETn is low, during a soft reset, for a slot byte
out of range and for a slot in the wrong state (R18 to R21, R171, R172). -/

namespace Sys2Proof.Machine

variable {s t : State} {i : Instr}

/-! ### The step -/

/-- Settles O1: the two cases of the queue are the two branches of a step. -/
theorem stepTakesTheFrontCommand : Obligations.StepTakesTheFrontCommand :=
  ⟨fun s c rest h => by simp only [step, h], fun s h => by simp only [step, h]⟩

/-! ### While RESETn is low -/

theorem State.ifUp_of_low (h : s.resetn = false) (f : State → State) : s.ifUp f = s :=
  if_neg (by simp [h])

theorem State.ifUp_of_up (h : s.resetn = true) (f : State → State) : s.ifUp f = f s :=
  if_pos h

theorem State.slotCommand_of_low (h : s.resetn = false) (n : Nat) (b : Byte) (f : SlotNo → State) :
    s.slotCommand n b f = s := if_neg (by simp [h])

theorem State.deviceCommand_of_low (h : s.resetn = false) (n : Nat) (u : State) : s.deviceCommand n u = s :=
  if_neg (by simp [h])

theorem State.requestAcceptance_of_not_canAccept {port : Port} (h : ¬ s.canAccept port) (req : Request) :
    s.requestAcceptance port req = s := by
  rw [← s.accepts_iff] at h
  exact if_neg h

theorem State.responseTaken_of_none {port : Port} (h : s.offered port = none) : s.responseTaken port = s := by
  simp only [State.responseTaken, h]

theorem State.activate_of_low (h : s.resetn = false) (b : Byte) (matched : Bool) : s.activate b matched = s := by
  unfold State.activate State.recordCommand
  exact State.slotCommand_of_low h _ _ _

theorem exec_clear_of_low (h : s.resetn = false) (b : Byte) (mask : Kinds) (options : Byte) :
    exec (.clear b mask options) s = .next s := by
  refine congrArg Host.Outcome.next ?_
  split
  · exact State.deviceCommand_of_low h _ _
  · exact State.slotCommand_of_low h _ _ _

/-- Settles O2: every command runs behind a test of the level, but for the two reset commands. -/
theorem nothingIsTakenWhileResetIsLow : Obligations.NothingIsTakenWhileResetIsLow := by
  intro s c h hreset hrelease
  have low : ¬ s.resetn = true := by simp [h]
  cases c
  case hardReset | hardResetRelease => contradiction
  case requestAcceptance port req =>
    exact congrArg _ (State.requestAcceptance_of_not_canAccept (fun can => low can.1) req)
  case responseTaken port => exact congrArg _ (State.responseTaken_of_none (if_neg low))
  case holdRelease | timeBaseAdvance | holdExpiry | arbiterGrant | memoryTakesRequest | copyTake | replaySelect
      | replayIssue | softResetEnd => exact congrArg _ (State.ifUp_of_low h _)
  case mResponse | sealedEntry | drainEnd | returnToDefined | sealLineEdge | epochEdge =>
    exact congrArg _ (State.ifUp_of_low h _)
  case activate b => exact congrArg Host.Outcome.next (State.activate_of_low h b false)
  case activateMatched b => exact congrArg Host.Outcome.next (State.activate_of_low h b true)
  case define | readdef | undefine | retire | revive | scroll | setStep | status | probe =>
    exact congrArg _ (State.slotCommand_of_low h _ _ _)
  case sealGroups | policy | softreset => exact congrArg _ (State.deviceCommand_of_low h _ _)
  case clear b mask options => exact exec_clear_of_low h b mask options
  case devstatus => exact congrArg _ (if_neg low)
  case unknownCommand => exact congrArg _ (if_neg (by simp [h]))
  case truncatedFrame => exact congrArg _ (if_neg low)

/-! ### The resets -/

theorem State.afterHardReset_hardReset (s : State) (up : Bool) :
    (s.hardReset up).resetn = up ∧ afterHardReset s (s.hardReset up) :=
  ⟨rfl, rfl, rfl, rfl, rfl, rfl, s.hardReset_region? up, rfl, rfl, fun j => by simp [State.hardReset, State.reset], rfl, rfl,
    rfl, rfl, rfl, rfl, rfl, rfl, rfl, rfl, rfl, rfl, rfl, rfl, rfl, rfl⟩

/-- Settles O3. -/
theorem hardResetLeavesNothing : Obligations.HardResetLeavesNothing := by
  intro s
  refine ⟨⟨_, rfl, s.afterHardReset_hardReset false⟩, fun hlow => ?_, fun hup => ?_⟩
  · exact ⟨_, congrArg Host.Outcome.next (if_neg (by simp [hlow])), s.afterHardReset_hardReset true⟩
  · exact congrArg Host.Outcome.next (if_pos hup)

theorem State.reset_region? (k : SlotNo) : State.reset.region? k = none := State.reset.hardReset_region? true k

/-- Settles O4: the state after reset has no record, no transaction and no request to look at. -/
theorem resetStateIsSafe : Obligations.ResetStateIsSafe := by
  have free : ∀ k, ∀ g ∈ State.reset.region? k, False := fun k g hg => by
    rw [State.reset_region?] at hg
    cases hg
  have slots : ∀ j x, ¬ State.reset.copies j x := fun j x h => by
    simp [State.copies, State.reset] at h
  have noTx : ∀ x ∈ ([] : List Tx), False := fun x hx => nomatch hx
  have noRecord : ∀ r ∈ ([] : List QRecord), False := fun r hr => nomatch hr
  have copies : State.reset.copiesAgree :=
    ⟨fun j x h => (slots j x h).elim, fun j _ x _ h => (slots j x h).elim, fun k g hg => (free k g hg).elim,
      fun k g hg => (free k g hg).elim⟩
  have counted : State.reset.transactionsCounted :=
    ⟨fun k g hg => (free k g hg).elim, fun x hx => (noTx x hx).elim, fun x hx => (noTx x hx).elim⟩
  have ranges : State.reset.inRange := ⟨by decide, by decide, by decide, fun k g hg => (free k g hg).elim⟩
  have queue : State.reset.queueAgrees := ⟨fun r hr => (noRecord r hr).elim, .nil⟩
  have replay : State.reset.replayAgrees :=
    ⟨by decide, fun r hr => (noRecord r hr).elim, fun _ r hr => (noRecord r hr).elim, fun h => absurd rfl h,
      fun _ r hr => (noRecord r hr).elim⟩
  exact ⟨rfl, rfl, (State.reset.afterHardReset_hardReset true).2, fun k g hg => (free k g hg).elim, ranges,
    fun k g hg => (free k g hg).elim, fun k g hg => (free k g hg).elim, by decide, copies, counted, by decide,
    fun k g hg => (free k g hg).elim, fun x hx => (noTx x hx).elim, queue, replay, by decide,
    fun k g hg => (free k g hg).elim, by decide, fun r hr => by cases hr⟩

theorem setKind_resetDone (set : Kinds) : setKind set .resetDone = set ||| 0x1000 := rfl

/-- Settles O6: the test of the act is the flag and the idle port. -/
theorem softResetEndsWhenThePortIsIdle : Obligations.SoftResetEndsWhenThePortIsIdle := by
  intro s hup
  have run : exec .softResetEnd s = .next s.softResetEnd := congrArg _ (State.ifUp_of_up hup _)
  rw [run]
  refine ⟨fun hsoft hidle => congrArg _ ?_, fun hnot => congrArg _ ?_⟩
  · rw [← s.portIdle_iff] at hidle
    exact if_pos (by simp [hsoft, hidle])
  · rw [← s.portIdle_iff] at hnot
    exact if_neg (by simpa [← Bool.not_eq_true, imp_iff_not_or] using hnot)

/-! ### Commands of the link in their common form -/

theorem State.slotCommand_of_busy (h : s.resetn = true) (hs : s.softReset = true) (n : Nat) (b : Byte) (f : SlotNo → State) :
    s.slotCommand n b f = s.answer n .busy [] := by
  simp [State.slotCommand, h, hs]

theorem State.deviceCommand_of_busy (h : s.resetn = true) (hs : s.softReset = true) (n : Nat) (u : State) :
    s.deviceCommand n u = s.answer n .busy [] := by
  simp [State.deviceCommand, h, hs]

/-- What a record command makes of its slot. -/
def State.onRecord (s : State) (n : Nat) (ok : Region → Bool) (f : SlotNo → Region → State) (k : SlotNo) : State :=
  match s.region? k with
  | some g => if ok g then f k g else s.answer n .badstate []
  | none => s.answer n .badstate []

theorem State.onRecord_of_not (n : Nat) (ok : Region → Bool) (f : SlotNo → Region → State) (k : SlotNo)
    (h : ∀ g ∈ s.region? k, ok g = false) : s.onRecord n ok f k = s.answer n .badstate [] := by
  simp only [State.onRecord]
  split
  · rename_i g hg
    rw [h g hg, if_neg Bool.false_ne_true]
  · rfl

/-- The form of a slot command: `n` parameter bytes, and what it makes of a slot in range, BADSTATE where Table 10-3 does not offer
it. -/
structure SlotForm (c : Instr) (slot : Byte) (n : Nat) : Prop where
  runs : ∃ f : State → SlotNo → State, (∀ s, exec c s = .next (s.slotCommand n slot (f s))) ∧
    ∀ (s : State) k, ¬ availableIn c (s.region? k) → f s k = s.answer n .badstate []

theorem SlotForm.of_record {c : Instr} {slot : Byte} {n : Nat} (ok : Region → Bool) (f : State → SlotNo → Region → State)
    (hrun : ∀ s, exec c s = .next (s.recordCommand n slot ok (f s)))
    (hok : ∀ (s : State) k, ¬ availableIn c (s.region? k) → ∀ g ∈ s.region? k, ok g = false) : SlotForm c slot n :=
  ⟨fun s => s.onRecord n ok (f s), hrun, fun s k h => State.onRecord_of_not n ok _ k (hok s k h)⟩

/-- Every slot command has this form, its frame holding the two bytes of command and slot and its parameter bytes. -/
theorem slotForm_of_slotByte {c : Instr} {slot : Byte} {bytes : List Byte} (hs : slotByte c = some slot)
    (hb : encodeFrame c = some bytes) : ∃ n, bytes.length = n + 2 ∧ SlotForm c slot n := by
  have defined : ∀ x : Option Region, (¬ ∃ g ∈ x, g.life = .defined) → ∀ g ∈ x, (g.life == .defined) = false :=
    fun x h g hg => beq_eq_false_iff_ne.2 fun hl => h ⟨g, hg, hl⟩
  have notRetiring : ∀ x : Option Region, (¬ ∃ g ∈ x, g.life ≠ .retiring) → ∀ g ∈ x, (g.life != .retiring) = false := by
    intro x h g hg
    by_contra hne
    exact h ⟨g, hg, by simpa using hne⟩
  cases c <;> simp only [slotByte, Option.some.injEq, reduceCtorEq] at hs <;> cases hb
  case define p =>
    subst hs
    refine ⟨26, by simp [defineBytes, bytes32, bytes16], ⟨_, fun s => rfl, fun s k h => ?_⟩⟩
    match hg : s.region? k with
    | none => exact absurd hg h
    | some g => rfl
  case readdef =>
    subst hs
    exact ⟨0, rfl, .of_record _ _ (fun s => rfl) fun s k h g hg => absurd (Option.ne_none_iff_exists'.2 ⟨g, hg⟩) h⟩
  case undefine =>
    subst hs
    exact ⟨0, rfl, .of_record _ _ (fun s => rfl) fun s k h => defined _ h⟩
  case activate =>
    subst hs
    exact ⟨0, rfl, .of_record _ _ (fun s => rfl) fun s k h => defined _ h⟩
  case activateMatched =>
    subst hs
    exact ⟨0, rfl, .of_record _ _ (fun s => rfl) fun s k h => defined _ h⟩
  case retire =>
    subst hs
    exact ⟨0, rfl, .of_record _ _ (fun s => rfl) fun s k h g hg =>
      beq_eq_false_iff_ne.2 fun hl => h ⟨g, hg, hl⟩⟩
  case revive =>
    subst hs
    refine ⟨0, rfl, .of_record _ _ (fun s => rfl) fun s k h g hg => ?_⟩
    by_contra hne
    rw [Bool.not_eq_false, Region.revivable_iff] at hne
    exact h ⟨g, hg, hne⟩
  case scroll v =>
    subst hs
    exact ⟨2, rfl, .of_record _ _ (fun s => rfl) fun s k h => notRetiring _ h⟩
  case setStep v =>
    subst hs
    exact ⟨2, rfl, .of_record _ _ (fun s => rfl) fun s k h => notRetiring _ h⟩
  case status =>
    subst hs
    exact ⟨0, rfl, ⟨_, fun s => rfl, fun s k h => absurd trivial h⟩⟩
  case probe line =>
    subst hs
    refine ⟨2, rfl, .of_record _ _ (fun s => rfl) fun s k h g hg => ?_⟩
    by_contra hne
    exact h ⟨g, hg, by simpa [Option.isSome_iff_ne_none] using hne⟩
  case clear b mask options =>
    split at hs
    · cases hs
    · rename_i hb
      cases hs
      exact ⟨3, rfl, .of_record _ _ (fun s => congrArg Host.Outcome.next (if_neg hb)) fun s k h g hg =>
        absurd (Option.ne_none_iff_exists'.2 ⟨g, hg⟩) h⟩

theorem State.answer_eq (s : State) (n : Nat) (r : Result) : s.answer n r [] = { s with reply := answerOf (n + 3) r } := rfl

/-- Settles O8: by the common form of the slot commands. -/
theorem slotCommandsNeedTheirSlotState : Obligations.SlotCommandsNeedTheirSlotState := by
  intro s c slot bytes hup hs hb
  obtain ⟨n, hn, ⟨f, hrun, hbad⟩⟩ := slotForm_of_slotByte hs hb
  rw [hrun, hn]
  refine ⟨fun hbig => ?_, fun k hk hnot => ?_⟩
  · rw [s.slotCommand_of_badarg n slot _ hup hbig]
    rfl
  · rw [s.slotCommand_of_slot n slot k _ hup hk, hbad s k hnot]
    rfl

/-- A command that a frame spells, other than DEVSTATUS and an unknown code, is answered BUSY during a soft reset. -/
theorem exec_busy (hup : s.resetn = true) (hs : s.softReset = true) {c : Instr} {bytes : List Byte}
    (hb : encodeFrame c = some bytes) (hdev : ∀ b, c ≠ .devstatus b) (hcode : ∀ a b, c ≠ .unknownCommand a b) :
    exec c s = .next { s with reply := answerOf (bytes.length + 1) .busy } := by
  match hslot : slotByte c with
  | some slot =>
    obtain ⟨n, hn, ⟨f, hrun, -⟩⟩ := slotForm_of_slotByte hslot hb
    rw [hrun, hn, State.slotCommand_of_busy hup hs]
    rfl
  | none =>
    cases c <;> cases hb
    case define | readdef | undefine | activate | activateMatched | retire | revive | scroll | setStep | status | probe =>
      cases hslot
    case sealGroups => exact congrArg _ (State.deviceCommand_of_busy hup hs 1 _)
    case devstatus b => exact absurd rfl (hdev b)
    case policy => exact congrArg _ (State.deviceCommand_of_busy hup hs 6 _)
    case softreset => exact congrArg _ (State.deviceCommand_of_busy hup hs 0 _)
    case unknownCommand a b => exact absurd rfl (hcode a b)
    case clear b mask options =>
      simp only [slotByte] at hslot
      split at hslot
      · subst b
        exact congrArg _ (State.deviceCommand_of_busy hup hs 3 _)
      · cases hslot

/-- Settles O7: by the common forms of the slot commands and of the device commands. -/
theorem busyDuringSoftReset : Obligations.BusyDuringSoftReset := by
  intro s hup hs
  refine ⟨fun c bytes hb hdev hcode => exec_busy hup hs hb hdev hcode, fun port req => ?_⟩
  exact congrArg _ (State.requestAcceptance_of_not_canAccept (fun can => absurd can.2.1 (by simp [hs])) req)

end Sys2Proof.Machine
end

section
/-! PROOFS. Commands of the link that change a record or the device by themselves: DEFINE, the refusals of ACTIVATE, SCROLL, STEP, CLEAR,
POLICY, and frames that are no command (Chapters 2, 7, 10). -/

namespace Sys2Proof.Machine

variable {s t : State} {i : Instr} {slot : Byte} {k : SlotNo} {g : Region}

/-! ### DEFINE -/

theorem newRegion_eq (p : DefineParams) : newRegion (definitionOf p) =
    { life := .defined, defn := definitionOf p, health := .healthy, score := 0, missed := 0, timeouts := 0, refused := 0
      lastDiscard := 0, conds := 0, cycle := none
      rot := if p.flags.getLsbD 3 then some { offset := 0, staged := none, step := p.autoStep.toNat } else none } := by
  have rotation : (definitionOf p).rotation = if p.flags.getLsbD 3 then
      some { head := p.head.toNat, body := p.body.toNat, tail := p.tail.toNat, autoStep := p.autoStep.toNat }
    else none := rfl
  rw [newRegion, rotation, apply_ite (Option.map _)]
  rfl

theorem exec_define_of_free (hup : s.linkUp) (hk : slot.toNat = k.val) (hg : s.region? k = none) (p : DefineParams) :
    exec (.define slot p) s = .next
      (if defineOk p then (s.putRegion k (some (newRegion (definitionOf p)))).answer 26 .ack []
      else s.answer 26 .badarg []) := by
  refine congrArg Host.Outcome.next ?_
  rw [s.slotCommand_of_slot 26 slot k _ hup hk, hg]

/-- Settles O9: `defineOk` is the arithmetic of R23 and R24. -/
theorem defineAcksExactlyTheValidDefinitions : Obligations.DefineAcksExactlyTheValidDefinitions := by
  intro s slot k p hup hk hg
  refine ⟨fun hv => ⟨definitionOf p, definitionOf_holds p, ?_⟩, fun hv => ?_⟩ <;>
    rw [exec_define_of_free hup hk hg] <;> rw [← defineOk_iff] at hv
  · rw [if_pos hv, newRegion_eq]
    rfl
  · rw [if_neg hv]
    rfl

/-! ### Commands on a record -/

theorem State.recordCommand_of_ok (hup : s.linkUp) (hk : slot.toNat = k.val) (hg : s.region? k = some g) {ok : Region → Bool}
    (hok : ok g = true) (n : Nat) (f : SlotNo → Region → State) : s.recordCommand n slot ok f = f k g := by
  rw [s.recordCommand_of_some n slot k ok f g hup hk hg, if_pos hok]

/-- Both activations are `State.activate` with their own line states. -/
theorem exec_activation {c : Instr} (hc : c = .activate slot ∨ c = .activateMatched slot) :
    ∃ matched, exec c s = .next (s.activate slot matched) := by
  obtain rfl | rfl := hc
  · exact ⟨false, rfl⟩
  · exact ⟨true, rfl⟩

theorem State.activate_of_defined (hup : s.linkUp) (hk : slot.toNat = k.val) (hg : s.region? k = some g)
    (hl : g.life = .defined) (matched : Bool) : s.activate slot matched =
      if s.clashes k g.defn then s.answer 0 .overlap []
      else if s.poolShort g.defn then s.answer 0 .nospace []
      else ((s.putRegion k (some (g.activated matched))).answer 0 .ack []).settle := by
  rw [State.activate, State.recordCommand_of_ok hup hk hg (ok := fun g => g.life == .defined) (beq_iff_eq.2 hl)]

theorem State.poolShort_iff (s : State) (d : Definition) :
    s.poolShort d = true ↔ d.double.isSome = true ∧ 16384 < s.poolUsed + d.size := by
  simp [State.poolShort, Config.poolEntries]

/-- Settles O12. -/
theorem activateRefusals : Obligations.ActivateRefusals := by
  intro s slot k g c hup hk hg hl hc
  obtain ⟨matched, run⟩ := exec_activation (s := s) hc
  rw [run, State.activate_of_defined hup hk hg hl, ← s.clashes_iff]
  refine ⟨fun hclash => ?_, fun hclash hd hpool => ?_⟩
  · rw [if_pos hclash]
    rfl
  · rw [if_neg hclash, if_pos ((s.poolShort_iff _).2 ⟨hd, hpool⟩)]
    rfl

/-! ### SCROLL and STEP -/

theorem exec_scroll_of_some (hup : s.linkUp) (hk : slot.toNat = k.val) (hg : s.region? k = some g) (hl : g.life ≠ .retiring)
    (v : BitVec 16) : exec (.scroll slot v) s = .next
      (if g.belowBody v.toNat then (s.putRegion k (some (g.scrolled v.toNat))).answer 2 .ack []
      else s.answer 2 .badarg []) := by
  refine congrArg Host.Outcome.next ?_
  rw [State.recordCommand_of_ok hup hk hg (ok := fun g => g.life != .retiring) (bne_iff_ne.2 hl), s.modRegion_of_some k _ g hg]

theorem exec_setStep_of_some (hup : s.linkUp) (hk : slot.toNat = k.val) (hg : s.region? k = some g) (hl : g.life ≠ .retiring)
    (v : BitVec 16) : exec (.setStep slot v) s = .next
      (if g.belowBody v.toNat then
        (s.putRegion k (some { g with rot := g.rot.map fun x => { x with step := v.toNat } })).answer 2 .ack []
      else s.answer 2 .badarg []) := by
  refine congrArg Host.Outcome.next ?_
  rw [State.recordCommand_of_ok hup hk hg (ok := fun g => g.life != .retiring) (bne_iff_ne.2 hl), s.modRegion_of_some k _ g hg]

/-- Settles O16. -/
theorem scrollAndStep : Obligations.ScrollAndStep := by
  intro s slot k g v hup hk hg hl
  rw [exec_scroll_of_some hup hk hg hl, exec_setStep_of_some hup hk hg hl]
  refine ⟨fun r x hr hx hv => ?_, fun hout => ?_⟩
  · rw [if_pos (g.belowBody_iff v.toNat |>.2 ⟨r, hr, hv⟩), if_pos (g.belowBody_iff v.toNat |>.2 ⟨r, hr, hv⟩)]
    refine ⟨fun hlife => ?_, fun hlife => ?_, ?_⟩
    · simp only [Region.scrolled, hlife, hx, Option.map_some]
      rfl
    · simp only [Region.scrolled, hlife, hx, Option.map_some]
      rfl
    · simp only [hx, Option.map_some]
      rfl
  · have hnot : ¬ g.belowBody v.toNat = true := by
      rw [g.belowBody_iff]
      rintro ⟨r, hr, hv⟩
      obtain hnone | ⟨r', hr', hle⟩ := hout
      · simp [hnone] at hr
      · obtain rfl : r' = r := Option.some.inj (hr'.symm.trans hr)
        omega
    rw [if_neg hnot, if_neg hnot]
    exact ⟨rfl, rfl⟩

/-! ### CLEAR -/

theorem exec_clear_device (hup : s.linkUp) (mask : Kinds) (options : Byte) :
    exec (.clear 0xFF mask options) s = .next (s.clearDevice mask options) := by
  refine congrArg Host.Outcome.next ?_
  rw [if_pos rfl, s.deviceCommand_of_up 3 _ hup]

/-- The options of a region CLEAR are 0 or 1 exactly when no bit above bit 0 is set. -/
theorem options_and_eq_zero_iff (options : Byte) : options &&& 0xFE = 0 ↔ options.toNat < 2 := by
  have shifted : options &&& (0xFE : Byte) = (options >>> 1) <<< 1 := by
    refine BitVec.eq_of_getLsbD_eq fun i hi => ?_
    have mask : ∀ i < 8, (0xFE : Byte).getLsbD i = decide (1 ≤ i) := by decide
    rw [BitVec.getLsbD_and, mask i hi, BitVec.getLsbD_shiftLeft, BitVec.getLsbD_ushiftRight]
    match i with
    | 0 => simp
    | i + 1 => simp [hi, Nat.add_comm]
  rw [shifted, ← BitVec.toNat_inj, BitVec.toNat_shiftLeft, BitVec.toNat_ushiftRight, Nat.shiftRight_eq_div_pow,
    Nat.shiftLeft_eq]
  have := options.isLt
  change options.toNat / 2 ^ 1 * 2 ^ 1 % 2 ^ 8 = 0 ↔ _
  omega

theorem exec_clear_of_some (hup : s.linkUp) (hk : slot.toNat = k.val) (hg : s.region? k = some g) (mask : Kinds)
    (options : Byte) : exec (.clear slot mask options) s = .next
      (if mask &&& 0x01FF = mask ∧ options.toNat < 2 then
        (s.putRegion k (some (g.cleared mask (asksCounters options)))).answer 3 .ack []
      else s.answer 3 .badarg []) := by
  refine congrArg Host.Outcome.next ?_
  have hslot : ¬ slot = 0xFF := by
    rintro rfl
    have : (0xFF : Byte).toNat = 255 := rfl
    omega
  rw [if_neg hslot, State.recordCommand_of_ok hup hk hg rfl, s.modRegion_of_some k _ g hg]
  refine if_congr ?_ rfl rfl
  rw [Bool.and_eq_true, namesOnly_iff, beq_iff_eq, options_and_eq_zero_iff]
  rfl

theorem Region.cleared_counters (g : Region) (mask : Kinds) (h : ∀ c ∈ g.cycle, c.pub ≠ .halted) :
    g.cleared mask true =
      { g with
        conds := g.conds &&& ~~~mask, missed := 0, timeouts := 0, refused := 0, lastDiscard := 0, score := 0
        health := .healthy } := by
  have hnot : g.cycle.any (fun c => c.pub == .halted) = false := by
    match hc : g.cycle with
    | none => rfl
    | some c => exact beq_eq_false_iff_ne.2 (h c hc)
  simp [Region.cleared, hnot]

theorem Region.cleared_halted (g : Region) (mask : Kinds) (h : ∃ c ∈ g.cycle, c.pub = .halted) :
    g.cleared mask true =
      { g with conds := g.conds &&& ~~~mask, missed := 0, timeouts := 0, refused := 0, lastDiscard := 0 } := by
  obtain ⟨c, hc, hp⟩ := h
  have hyes : g.cycle.any (fun c => c.pub == .halted) = true := by
    rw [Option.mem_def.1 hc]
    exact beq_iff_eq.2 hp
  simp [Region.cleared, hyes]

/-- Settles O19. -/
theorem clearRemovesTheListedConditions : Obligations.ClearRemovesTheListedConditions := by
  refine ⟨fun s mask options hup => ?_, fun s slot k g mask options hup hk hg => ?_⟩
  · have kinds : namesOnly mask deviceKinds = true ↔ mask &&& 0x1E00 = mask := namesOnly_iff mask deviceKinds
    rw [exec_clear_device hup, State.clearDevice]
    refine ⟨fun hm ho => ?_, fun hnot => ?_⟩
    · rw [if_pos (by simp [kinds.2 hm, ho])]
      rfl
    · have hbad : ¬ (namesOnly mask deviceKinds && options == 0) = true := by
        rw [Bool.and_eq_true, kinds, beq_iff_eq]
        tauto
      rw [if_neg hbad]
      rfl
  · rw [exec_clear_of_some hup hk hg]
    refine ⟨fun hm ho => ?_, fun hm ho hp => ?_, fun hm ho hp => ?_, fun hnot => ?_⟩
    · subst ho
      rw [if_pos ⟨hm, by decide⟩]
      rfl
    · subst ho
      rw [if_pos ⟨hm, by decide⟩]
      exact congrArg (fun g => Host.Outcome.next ((s.putRegion k (some g)).answer 3 .ack [])) (g.cleared_counters mask hp)
    · subst ho
      rw [if_pos ⟨hm, by decide⟩]
      exact congrArg (fun g => Host.Outcome.next ((s.putRegion k (some g)).answer 3 .ack [])) (g.cleared_halted mask hp)
    · rw [if_neg fun h => hnot.elim (fun hne => hne h.1) fun hle => absurd h.2 (by omega)]
      rfl

/-! ### POLICY -/

/-- The checks of POLICY in arithmetic (R181). -/
theorem policyOk_iff (hold : BitVec 16) (floor unmatched : Byte) (mask : Kinds) : policyOk hold floor unmatched mask = true ↔
    hold ≠ 0 ∧ (2 ≤ floor.toNat ∧ floor.toNat ≤ 16) ∧ unmatched.toNat ≤ 1 ∧ mask &&& 0x1FFF = mask := by
  have byteBit : (unmatched = 0x00 ∨ unmatched = 0x01) ↔ unmatched.toNat ≤ 1 := by
    rw [← BitVec.toNat_inj, ← BitVec.toNat_inj]
    simp
    omega
  have kinds : namesOnly mask allKinds = true ↔ mask &&& 0x1FFF = mask := namesOnly_iff mask allKinds
  simp only [policyOk, Bool.and_eq_true, bne_iff_ne, ne_eq, decide_eq_true_eq, Bool.or_eq_true, beq_iff_eq, byteBit, kinds,
    and_assoc]

/-- Settles O21. -/
theorem policySetsAllFour : Obligations.PolicySetsAllFour := by
  intro s slot hold floor unmatched mask hup
  have hold0 : hold ≠ 0 ↔ 1 ≤ hold.toNat := by
    rw [Nat.one_le_iff_ne_zero, ne_eq, ne_eq, ← BitVec.toNat_inj]
    rfl
  have run : exec (.policy slot hold floor unmatched mask) s = .next
      (if policyOk hold floor unmatched mask then
        (s.setPolicy hold.toNat floor.toNat (unmatched == 0x01) mask).answer 6 .ack []
      else s.answer 6 .badarg []) := congrArg Host.Outcome.next (s.deviceCommand_of_up 6 _ hup)
  rw [run]
  refine ⟨fun ⟨hh, hf, hu, hm⟩ => ?_, fun hbad => ?_⟩
  · rw [if_pos ((policyOk_iff hold floor unmatched mask).2 ⟨hold0.2 hh, hf, hu, hm⟩)]
    rfl
  · have hnot : ¬ policyOk hold floor unmatched mask = true := by
      rw [policyOk_iff]
      rintro ⟨hh, ⟨hf, hf'⟩, hu, hm⟩
      obtain h | h | h | h | h := hbad
      · exact hh h
      · omega
      · omega
      · omega
      · exact h hm
    rw [if_neg hnot]
    rfl

/-! ### Frames that are no command -/

/-- Settles O22. -/
theorem framesThatAreNoCommand : Obligations.FramesThatAreNoCommand := by
  intro s hup
  refine ⟨fun code slot hcode => ?_, fun bits hne hshort => ?_⟩
  · exact congrArg Host.Outcome.next (if_pos (by simp [hup, hcode]))
  · have cut : truncated bits = true := by
      simpa [truncated, hne] using hshort
    exact congrArg Host.Outcome.next ((if_pos hup).trans (if_pos cut))

/-! ### Offers of the ports and of the memory -/

theorem exec_responseTaken_of_done {port : Port} {x : Tx} {rest : List Tx} {status : Status} {data : List Word}
    (hup : s.resetn = true) (hfront : s.tracker port = x :: rest) (hx : x.state = .done status data) :
    exec (.responseTaken port) s = .next ((s.setTracker port rest).leaveCount x).settle := by
  have offered : s.offered port = some (status, data) := by simp [State.offered, hup, hfront, hx]
  refine congrArg Host.Outcome.next ?_
  simp only [State.responseTaken, offered, State.complete, hfront]

/-- Settles O24. -/
theorem untakenOffersLeaveNoTrace : Obligations.UntakenOffersLeaveNoTrace := by
  intro s
  have kept : ∀ f : State → State, f s = s → s.ifUp f = s := fun f hf => by
    simp only [State.ifUp]
    split
    · exact hf
    · rfl
  refine ⟨fun port req hcan => ?_, fun port hfront => ?_, fun hout status data => ?_, fun hreq => ?_⟩
  · exact congrArg Host.Outcome.next (State.requestAcceptance_of_not_canAccept hcan req)
  · refine congrArg Host.Outcome.next (State.responseTaken_of_none ?_)
    simp only [State.offered]
    split
    · split
      · rename_i x hx
        split
        · rename_i status data hstate
          exact absurd hstate (hfront x hx status data)
        all_goals rfl
      · rfl
    · rfl
  · exact congrArg Host.Outcome.next (kept _ (by simp only [State.mResponse, hout]))
  · exact congrArg Host.Outcome.next (kept _ (by simp only [State.memoryTakes, hreq]))

/-- Settles O32. -/
theorem responseTakenLeavesTheCount : Obligations.ResponseTakenLeavesTheCount := by
  intro s port x rest status data hup hfront hx
  rw [exec_responseTaken_of_done hup hfront hx]
  refine ⟨fun hc => ?_, fun k g c hk hg hcy => ?_⟩
  · simp [State.leaveCount, hc]
  · have hreg : (s.setTracker port rest).region? k = some g := by
      rw [State.region?, s.setTracker_table]
      exact hg
    have left : ∀ e, x.count = some e → (s.setTracker port rest).leaveCount x =
        (s.setTracker port rest).putRegion k (some (g.withCycle (c.leave e))) := fun e he => by
      simp only [State.leaveCount, hk, he]
      exact State.modCycle_of_some _ k _ g c hreg hcy
    exact ⟨fun h => by rw [left _ h]; rfl, fun h => by rw [left _ h]; rfl, fun h => by rw [left _ h]; rfl⟩

/-- Settles O38. -/
theorem memoryTakesTheRequest : Obligations.MemoryTakesTheRequest := by
  intro s w hup hw
  refine congrArg Host.Outcome.next ((State.ifUp_of_up hup _).trans ?_)
  simp only [State.memoryTakes, hw]

end Sys2Proof.Machine
end

section
/-! PROOFS. Requests (Chapter 1): what resolution makes of an access that matches no window, of a single region, and of a double region,
and the record and the counts that follow (R5 to R10, R14, R15, R32 to R34, R48 to R54, R96 to R98, R131). -/

namespace Sys2Proof.Machine

variable {s : State} {port : Port} {req : Request} {k : SlotNo} {g : Region} {c : Cycle}

/-! ### Resolution -/

theorem State.resolve_of_unmatched (hw : withinLine req) (h : s.unmatched req) :
    s.resolve port req = if s.guarded req.addr || s.refuseUnmatched then .unmatchedRefused else .passed := by
  simp [State.resolve, (Request_crossesLine_eq_false_iff req).2 hw, s.matching_of_unmatched req h]

theorem State.resolve_of_matches_s (hw : withinLine req) (h : s.matches req k g) :
    s.resolve .s req = resolveScan k g req := by
  simp [State.resolve, (Request_crossesLine_eq_false_iff req).2 hw, s.matching_of_matches req k g h]

theorem State.resolve_of_matches_p (hw : withinLine req) (h : s.matches req k g) :
    s.resolve .p req = s.resolveProducer k g req := by
  simp [State.resolve, (Request_crossesLine_eq_false_iff req).2 hw, s.matching_of_matches req k g h]

theorem State.resolve_write_of_passes (hw : withinLine req) (h : s.matches req k g) (hk : req.kind = .write)
    (hpass : g.defn.passesTag req.tag) (hc : g.cycle = some c) : s.resolve .p req = s.resolveWrite k g c req := by
  rw [State.resolve_of_matches_p hw h]
  simp [State.resolveProducer, hk, (g.defn.filterPasses_iff _).2 hpass, hc]

/-- An accepted request whose resolution is answered at once. -/
theorem exec_request_answered (can : s.canAccept port) {res : Resolution} (hres : s.resolve port req = res)
    (now : res.answered = true) : exec (.requestAcceptance port req) s = .next (s.accept port req res) := by
  rw [exec_requestAcceptance, State.requestAcceptance_of_canAccept can, hres, if_pos now]

/-- An accepted request after which the blocks act. -/
theorem exec_request_settles (can : s.canAccept port) {res : Resolution} (hres : s.resolve port req = res)
    (later : res.answered = false) : exec (.requestAcceptance port req) s = .next (s.accept port req res).settle := by
  rw [exec_requestAcceptance, State.requestAcceptance_of_canAccept can, hres, if_neg (by simp [later])]

/-- Settles O26. -/
theorem unmatchedAccesses : Obligations.UnmatchedAccesses := by
  intro s port req can hw hun
  refine ⟨fun h => ?_, fun hbank hpass => ?_⟩
  · have res : s.resolve port req = .unmatchedRefused := by
      rw [State.resolve_of_unmatched hw hun, if_pos (by rwa [Bool.or_eq_true, s.guarded_iff])]
    rw [exec_request_answered can res rfl]
    cases port <;> rfl
  · refine exec_request_settles can (res := .passed) ?_ rfl
    rw [State.resolve_of_unmatched hw hun, if_neg (by simpa [s.guarded_iff, hpass] using hbank)]

/-- Settles O27. -/
theorem writesAnsweredAtOnce : Obligations.WritesAnsweredAtOnce := by
  intro s port req k g can hw hm hk
  have refused : s.resolve port req = .refused k → exec (.requestAcceptance port req) s = .next
      ((s.addTx port req (some k) none none (.done .refused []) none).putRegion k (some g.countRefused)) := fun hres => by
    rw [exec_request_answered can hres rfl, State.accept, State.modRegion_of_some _ k _ g]
    rw [State.addTx_region?]
    exact hm.1
  refine ⟨fun h => refused ?_, fun hp hpass hhalt => ?_⟩
  · obtain rfl | ⟨rfl, hfilter⟩ := h
    · rw [State.resolve_of_matches_s hw hm]
      simp [resolveScan, hk]
    · rw [← Definition.filterPasses_iff] at hfilter
      rw [State.resolve_of_matches_p hw hm]
      simp [State.resolveProducer, hk, hfilter]
  · subst hp
    obtain ⟨c, hc, hpub⟩ := hhalt
    refine exec_request_answered can (res := .fenced k) ?_ rfl
    rw [State.resolve_write_of_passes hw hm hk hpass hc, State.resolveWrite, if_pos hpub]

/-- Settles O28. -/
theorem singleRegionAccesses : Obligations.SingleRegionAccesses := by
  intro s port req k g can hw hm hc
  refine ⟨fun hp h => ?_, fun hp hk => ?_⟩ <;> subst hp
  · refine exec_request_settles can (res := .issue k .a (g.defn.bankAddr .a req.addr) none) ?_ rfl
    rw [State.resolve_of_matches_p hw hm, State.resolveProducer]
    cases hkind : req.kind with
    | read => simp only [hc]
    | write =>
      have hpass : g.defn.passesTag req.tag := h.resolve_left (by simp [hkind])
      simp only [(g.defn.filterPasses_iff _).2 hpass, hc, if_true]
  · rw [show g.defn.bankA = g.defn.bankBase .a from rfl, ← g.scanAddr_eq .a req]
    refine exec_request_settles can (res := .issue k .a (g.scanAddr .a req.addr) none) ?_ rfl
    rw [State.resolve_of_matches_s hw hm]
    simp only [resolveScan, hk, hc]

/-- A read that has its bank enters the bank's reader count. -/
theorem State.accept_read (hg : s.region? k = some g) (hc : g.cycle = some c) (bank : Bank) (phys : Nat) :
    s.accept port req (.issue k bank phys (some (.reader bank))) =
      (s.addTx port req (some k) (some bank) (some phys) .accepted (some (.reader bank))).putRegion k
        (some (g.withCycle (c.enter (.reader bank)))) := by
  rw [State.accept, State.enterCount, State.modCycle_of_some _ k _ g c _ hc]
  rw [State.addTx_region?, hg]

/-- Settles O29. -/
theorem readsOfADoubleRegion : Obligations.ReadsOfADoubleRegion := by
  intro s port req k g c can hw hm hc hk
  refine ⟨fun hp bank hbank => ?_, fun hp hpub hover => ?_, fun hp hfree bank hbank => ?_⟩ <;> subst hp
  · subst hbank
    rw [← g.scanAddr_eq, ← State.accept_read hm.1 hc]
    refine exec_request_settles can ?_ rfl
    rw [State.resolve_of_matches_s hw hm]
    simp only [resolveScan, hk, hc]
  · refine exec_request_settles can (res := .holdOverlap k) ?_ rfl
    rw [State.resolve_of_matches_p hw hm]
    simp only [State.resolveProducer, hk, hc, State.resolveRead]
    exact if_pos ⟨hpub, (s.overlapsQueue_iff k g.defn req).2 hover⟩
  · rw [← Cycle.readBank_eq] at hbank
    rw [← State.accept_read hm.1 hc]
    refine exec_request_settles can ?_ rfl
    rw [State.resolve_of_matches_p hw hm, hbank]
    simp only [State.resolveProducer, hk, hc, State.resolveRead]
    refine if_neg fun ⟨hpub, hover⟩ => ?_
    exact hfree.elim hpub fun hn => hn ((s.overlapsQueue_iff k g.defn req).1 hover)

/-! ### Writes to a double region -/

theorem State.demands_iff (s : State) (k : SlotNo) (line : Nat) :
    s.demands k line = true ↔ ∃ e ∈ s.demand, e.region = k ∧ e.line = line := by
  simp [State.demands]

theorem State.replayDemands_iff (s : State) (k : SlotNo) (line : Nat) : s.replayDemands k line = true ↔
    s.replay = .waiting .demand ∧ ∃ r ∈ s.queue, r.selected = true ∧ r.region = k ∧ r.line = line := by
  simp [State.replayDemands, and_assoc]

/-- The P path's entry joins (R120). -/
theorem State.joinDemand_pPath (s : State) (k : SlotNo) (line : Nat) :
    s.joinDemand .pPath k line = { s with demand := s.demandOfP k line } := by
  have replaced : s.replaced = fun e =>
      if e.requester = .replay then some e
      else if s.replay = .waiting .demand ∧ ∃ r ∈ s.queue, r.selected = true ∧ r.region = e.region ∧ r.line = e.line then
        some { e with requester := .replay }
      else none := funext fun e => by
    simp only [State.replaced, s.replayDemands_iff]
  simp only [State.joinDemand, State.demandOfP, s.demands_iff, replaced, if_true]
  split <;> rfl

/-- The replay unit's entry joins (R120). -/
theorem State.joinDemand_replay (s : State) (k : SlotNo) (line : Nat) :
    s.joinDemand .replay k line =
      { s with demand := if ∃ e ∈ s.demand, e.region = k ∧ e.line = line then s.demand else s.demand ++ [⟨k, line, .replay⟩] } := by
  simp only [State.joinDemand, s.demands_iff, reduceCtorEq, if_false]
  split <;> rfl

theorem State.hasRecord_eq_false_iff (s : State) (k : SlotNo) : s.hasRecord k = false ↔ ∀ r ∈ s.queue, r.region ≠ k := by
  simp [State.hasRecord]

/-- A write of an OPEN region without queued records is a direct draft write (R51). -/
theorem State.resolve_direct (hw : withinLine req) (hm : s.matches req k g) (hc : g.cycle = some c) (hk : req.kind = .write)
    (hpass : g.defn.passesTag req.tag) (hpub : c.pub = .opened) (hq : ∀ r ∈ s.queue, r.region ≠ k) :
    s.resolve .p req = resolveDirect k g c req := by
  rw [State.resolve_write_of_passes hw hm hk hpass hc, State.resolveWrite, if_neg (by simp [hpub]),
    if_pos ⟨hpub, (s.hasRecord_eq_false_iff k).2 hq⟩]

/-- The count a held draft write enters. -/
theorem State.enterWriter_addTx (hg : s.region? k = some g) (hc : g.cycle = some c) (bank : Option Bank) (phys : Option Nat)
    (state : TxState) : (s.addTx .p req (some k) bank phys state (some .writer)).modCycle k (·.enter .writer) =
      (s.addTx .p req (some k) bank phys state (some .writer)).putRegion k
        (some (g.withCycle { c with writers := c.writers + 1 })) := by
  rw [State.modCycle_of_some _ k _ g c _ hc]
  · rfl
  · rw [State.addTx_region?, hg]

/-- Settles O30: by the three cases of Table 3-4 for the state of the line. -/
theorem directDraftWrites : Obligations.DirectDraftWrites := by
  intro s req k g c line l can hw hm hc hk hpass hpub hq hline hl
  have res := State.resolve_direct hw hm hc hk hpass hpub hq
  have lineEq : g.defn.lineOf req.addr = line := hline.symm
  have now : c.line line = l := c.line_of_some line l hl
  have short : line < c.lines.length := (List.getElem?_eq_some_iff.1 hl).1
  simp only [resolveDirect, lineEq, now] at res
  refine ⟨fun h => ?_, fun hst hfull => ?_, fun hcp => ?_⟩
  · have res' : s.resolve .p req = .draftWrite k c.draft (g.defn.bankAddr c.draft req.addr) line := by
      obtain rfl | rfl | ⟨rfl, hfull⟩ := h
      · exact res
      · exact res
      · exact res.trans (if_pos ((Request_fullLine_iff req).2 hfull))
    rw [exec_request_settles can res' rfl, State.accept, State.modCycle_of_some _ k _ g c _ hc]
    · rw [c.setLine_dirty line short]
      rfl
    · exact (State.addTx_region? ..).trans hm.1
  · subst hst
    have res' := res.trans (if_neg (mt (Request_fullLine_iff req).1 hfull))
    rw [exec_request_settles can res' rfl, State.accept, State.enterWriter_addTx hm.1 hc, if_pos rfl,
      State.joinDemand_pPath]
    rfl
  · subst hcp
    rw [exec_request_settles can res rfl, State.accept, State.enterWriter_addTx hm.1 hc, if_neg (by decide)]
    rfl

/-- Settles O31. -/
theorem postedWrites : Obligations.PostedWrites := by
  intro s req k g c can hw hm hc hk hpass hpub hnot
  have direct : ¬ (c.pub = .opened ∧ s.hasRecord k = false) := by
    rw [s.hasRecord_eq_false_iff]
    rintro ⟨ho, hq⟩
    obtain h | ⟨r, hr, hrk⟩ := hnot
    · exact h ho
    · exact hq r hr hrk
  have res := State.resolve_write_of_passes hw hm hk hpass hc
  rw [State.resolveWrite, if_neg hpub, if_neg direct] at res
  refine ⟨fun hroom => ?_, fun hfull => ?_⟩
  · rw [if_pos hroom] at res
    rw [exec_request_settles can res rfl, recordOf_eq]
    rfl
  · rw [if_neg (show ¬ s.queue.length < Config.queuePlaces by simp [Config.queuePlaces]; omega)] at res
    rw [exec_request_settles can res rfl]
    rfl

/-! ### Holds -/

theorem State.modHeld_eq (s : State) (f : Tx → Tx) : s.modHeld f = { s with pTracker := (s.modHeld f).pTracker } := rfl

variable {older : List Tx} {x : Tx} {reason : HoldReason} {age limit : Nat}

/-- The owner of the hold reason acts on the held transaction. -/
theorem exec_holdRelease_of_held (hup : s.resetn = true) (h : s.holdsYoungest older x reason age limit)
    (hk : x.region = some k) (hg : s.region? k = some g) (hc : g.cycle = some c) :
    exec .holdRelease s = .next (match reason with
      | .demand => s.releaseWrite x k g c
      | .copying => s.releaseWrite x k g c
      | .queue => s.releasePost x k g c
      | .overlap => s.releaseRead x k g c) := by
  refine congrArg Host.Outcome.next ((State.ifUp_of_up hup _).trans ?_)
  simp only [State.holdRelease, h.heldTx, hk, h.2.2, hg, hc]
  cases reason <;> rfl

/-- A write held DEMAND or COPYING whose line is copied. -/
theorem State.releaseWrite_of_copied (h : s.holdsYoungest older x reason age limit) (hg : s.region? k = some g)
    (hc : g.cycle = some c) {line : Nat} (hline : line = g.defn.lineOf x.req.addr) {l : LineState}
    (hl : c.lines[line]? = some l) (hl' : l = .sync ∨ l = .dirty) : s.releaseWrite x k g c =
      { s.putRegion k (some (g.withCycle (c.dirtied line))) with
        pTracker := older ++ [{ x with
          state := .accepted, bank := some c.front.other
          phys := some (g.defn.bankBase c.front.other + (x.req.addr - g.defn.window)) }] } := by
  have copied : s.releaseWrite x k g c = (s.modCycle k (·.setLine line .dirty)).modHeld fun y =>
      { y with state := .accepted, bank := some c.draft, phys := some (g.defn.bankAddr c.draft y.req.addr) } := by
    simp only [State.releaseWrite, ← hline, c.line_of_some line l hl]
    obtain rfl | rfl := hl' <;> rfl
  have held : (s.modCycle k (·.setLine line .dirty)).holdsYoungest older x reason age limit := h
  rw [copied, State.modHeld_eq, held.modHeld, State.modCycle_of_some _ k _ g c hg hc,
    c.setLine_dirty line (List.getElem?_eq_some_iff.1 hl).1]
  rfl

theorem State.releaseWrite_of_not_copied {line : Nat} (hline : line = g.defn.lineOf x.req.addr) {l : LineState}
    (hl : c.lines[line]? = some l) (hl' : l = .stale ∨ l = .copying) : s.releaseWrite x k g c = s := by
  simp only [State.releaseWrite, ← hline, c.line_of_some line l hl]
  obtain rfl | rfl := hl' <;> rfl

theorem State.releasePost_of_place (h : s.holdsYoungest older x reason age limit) (hq : s.queue.length < 32) :
    s.releasePost x k g c =
      { s with
        queue := s.queue ++ [postedRecord k g c x.req], pTracker := older ++ [{ x with state := .done .okay [] }] } := by
  have held : State.holdsYoungest { s with queue := s.queue ++ [recordOf k g.defn c x.req] } older x reason age limit := h
  rw [State.releasePost, if_pos hq, State.modHeld_eq, held.modHeld, recordOf_eq]

theorem State.releaseRead_of_clear (h : s.holdsYoungest older x reason age limit) (hg : s.region? k = some g)
    (hc : g.cycle = some c) {line : Nat} (hline : line = g.defn.lineOf x.req.addr) (hover : ¬ s.overlapped k g.defn x.req)
    {bank : Bank} (hbank : bank = readLands c line) : s.releaseRead x k g c =
      { s.putRegion k (some (g.withCycle (c.enter (.reader bank)))) with
        pTracker := older ++ [{ x with
          state := .accepted, bank := some bank, phys := some (g.defn.bankBase bank + (x.req.addr - g.defn.window))
          count := some (.reader bank) }] } := by
  rw [← Cycle.readBank_eq, hline] at hbank
  have held : (s.modCycle k (·.enter (.reader bank))).holdsYoungest older x reason age limit := h
  rw [State.releaseRead, if_neg (mt (s.overlapsQueue_iff k g.defn x.req).1 hover)]
  simp only [← hbank]
  rw [State.modHeld_eq, held.modHeld, State.modCycle_of_some _ k _ g c hg hc]
  rfl

/-- Settles O33: by the owner of each hold reason. -/
theorem holdReleaseByReason : Obligations.HoldReleaseByReason := by
  intro s older x reason age limit k g c line l hup h hk hg hc hline hl
  rw [exec_holdRelease_of_held hup h hk hg hc]
  refine ⟨fun hr hl' => congrArg _ ?_, fun hr hl' => congrArg _ ?_, fun hr hq => congrArg _ ?_, fun hr hq => congrArg _ ?_,
    fun hr hover => congrArg _ ?_, fun hr hover bank hbank => congrArg _ ?_⟩
  · have release := State.releaseWrite_of_copied h hg hc hline hl hl'
    obtain rfl | rfl := hr <;> exact release
  · have release := State.releaseWrite_of_not_copied (s := s) (k := k) hline hl hl'
    obtain rfl | rfl := hr <;> exact release
  · subst hr
    exact State.releasePost_of_place h hq
  · subst hr
    exact if_neg (show ¬ s.queue.length < 32 by omega)
  · subst hr
    exact if_pos ((s.overlapsQueue_iff k g.defn x.req).2 hover)
  · subst hr
    exact State.releaseRead_of_clear h hg hc hline hover hbank

/-! ### The time base -/

theorem State.modHeld_of_none (h : ∀ u ∈ s.pTracker, u.isHeld = false) (f : Tx → Tx) : s.modHeld f = s := by
  have same : s.pTracker.map (fun t => if t.isHeld = true then f t else t) = s.pTracker := by
    conv_rhs => rw [← List.map_id s.pTracker]
    exact List.map_congr_left fun u hu => by simp [h u hu]
  rw [State.modHeld, same]

theorem State.holdExpiry_of_none (h : ∀ u ∈ s.pTracker, u.isHeld = false) : s.holdExpiry = s := by
  simp only [State.holdExpiry, s.heldTx_eq_none_iff.2 h]

/-- The age goes up by one. -/
theorem State.ageHold_of_held (h : s.holdsYoungest older x reason age limit) :
    s.ageHold = { s with pTracker := older ++ [{ x with state := .held reason (age + 1) limit }] } := by
  rw [State.ageHold, State.modHeld_eq, h.modHeld, h.2.2]

theorem State.holdExpiry_of_before (h : s.holdsYoungest older x reason age limit) (hl : age < limit) : s.holdExpiry = s := by
  have young : ¬ x.expired = true := by simp [Tx.expired, h.2.2, hl]
  simp only [State.holdExpiry, h.heldTx]
  exact if_neg young

theorem State.holdExpiry_of_limit (h : s.holdsYoungest older x reason age limit) (hk : x.region = some k)
    (hg : s.region? k = some g) (hl : limit ≤ age) : s.holdExpiry =
      { s.putRegion k (some
          { g with
            timeouts := if g.timeouts < 255 then g.timeouts + 1 else g.timeouts, conds := g.conds ||| 0x0004 }) with
        pTracker := older ++ [{ x with state := .done .timeout [] }] } := by
  have old : x.expired = true := by simp [Tx.expired, h.2.2, hl]
  have expired : s.holdExpiry =
      (s.modHeld fun t => { t with state := .done .timeout [] }).modRegion k Region.countTimeout := by
    simp only [State.holdExpiry, h.heldTx, old, if_true, hk]
  rw [expired, State.modHeld_eq, h.modHeld]
  refine (State.modRegion_of_some _ k _ g ?_).trans rfl
  exact hg

/-- Settles O34. -/
theorem timeAndHoldExpiry : Obligations.TimeAndHoldExpiry := by
  intro s hup
  have advance : exec .timeBaseAdvance s = .next { s with timeBase := s.timeBase + 1 }.ageHold.holdExpiry :=
    congrArg _ (State.ifUp_of_up hup _)
  have expiry : exec .holdExpiry s = .next s.holdExpiry := congrArg _ (State.ifUp_of_up hup _)
  rw [advance, expiry]
  refine ⟨fun hnone => ⟨congrArg _ ?_, congrArg _ (State.holdExpiry_of_none hnone)⟩,
    fun older x reason age limit k g h hk hg => ?_⟩
  · have hnone' : ∀ u ∈ ({ s with timeBase := s.timeBase + 1 } : State).pTracker, u.isHeld = false := hnone
    rw [State.ageHold, State.modHeld_of_none hnone', State.holdExpiry_of_none hnone']
  · have later : State.holdsYoungest { s with timeBase := s.timeBase + 1 } older x reason age limit := h
    have aged : State.ageHold { s with timeBase := s.timeBase + 1 } = { s with
        timeBase := s.timeBase + 1, pTracker := older ++ [{ x with state := .held reason (age + 1) limit }] } :=
      State.ageHold_of_held later
    have still : State.holdsYoungest { s with timeBase := s.timeBase + 1, pTracker := older ++ [{ x with
        state := .held reason (age + 1) limit }] } older { x with state := .held reason (age + 1) limit } reason (age + 1)
        limit := ⟨rfl, h.2.1, rfl⟩
    rw [aged]
    refine ⟨fun hl => congrArg Host.Outcome.next ?_, fun hl => congrArg Host.Outcome.next ?_,
      fun hl => congrArg Host.Outcome.next (State.holdExpiry_of_before h hl),
      fun hl => congrArg Host.Outcome.next (State.holdExpiry_of_limit h hk hg hl)⟩
    · exact State.holdExpiry_of_before still hl
    · exact State.holdExpiry_of_limit (x := { x with state := .held reason (age + 1) limit }) still hk hg hl

end Sys2Proof.Machine
end

section
/-! PROOFS. The memory port (Chapters 6, 8, 9): what a grant sends, what a fence changes, and what the owner of a request makes of its
response. -/

namespace Sys2Proof.Machine

variable {s : State} {port : Port} {k : SlotNo} {g : Region} {c : Cycle}

/-! ### Who presents, and whom the arbiter grants (R11, R162, R163) -/

theorem State.presents_eq_none_iff (s : State) (port : Port) :
    s.presents port = none ↔ ∀ t ∈ s.tracker port, t.state ≠ .accepted := by
  simp [State.presents]

theorem State.presents_of_split {older younger : List Tx} {t : Tx} (h : s.tracker port = older ++ t :: younger)
    (ho : ∀ u ∈ older, u.state ≠ .accepted) (ht : t.state = .accepted) : s.presents port = some t := by
  have front : older.find? (fun t => t.state == .accepted) = none := by simpa using ho
  simp [State.presents, h, List.find?_append, front, ht]

theorem State.grantee_eq_none_of_not_canGrant (h : s.mRequest ≠ none ∨ 8 ≤ s.outstanding.length) : s.grantee = none := by
  have hnot : ¬ s.canGrant = true := by
    simp only [State.canGrant, Config.outstandingPlaces, Bool.and_eq_true, decide_eq_true_eq, Option.isNone_iff_eq_none]
    rintro ⟨hlen, hreq⟩
    exact h.elim (fun hne => hne hreq) (by omega)
  exact if_neg hnot

theorem State.grantee_eq_none_of_quiet (hp : s.presents .p = none) (hs : s.presents .s = none) (he : s.presented = none) :
    s.grantee = none := by
  simp [State.grantee, chooseGrant, hp, hs, he]

/-- The M port can send and somebody presents: somebody is granted. -/
theorem State.grantee_ne_none (hr : s.mRequest = none) (hl : s.outstanding.length < 8)
    (h : (s.presents .p).isSome ∨ s.presented.isSome ∨ (s.presents .s).isSome) : s.grantee ≠ none := by
  rw [State.grantee_of_free hl hr]
  obtain ⟨x, hx⟩ := exists_chooseGrant (floor := s.floor) (pPassed := s.pPassed) (cPassed := s.cPassed) h
  simp [hx]

theorem State.grant_of_none (h : s.grantee = none) : s.grant = s := by
  simp only [State.grant, h]

/-- Only the transaction in that place goes to ISSUED. -/
theorem map_issued_of_split {older younger : List Tx} {t : Tx} (ht : t.state = .accepted)
    (hplace : ∀ u ∈ older ++ younger, u.place ≠ t.place) :
    (older ++ t :: younger).map (fun u => if u.place = t.place ∧ u.state = .accepted then { u with state := .issued } else u) =
      older ++ { t with state := .issued } :: younger := by
  have others : ∀ l : List Tx, (∀ u ∈ l, u.place ≠ t.place) →
      l.map (fun u => if u.place = t.place ∧ u.state = .accepted then { u with state := .issued } else u) = l := by
    intro l hl
    conv_rhs => rw [← List.map_id l]
    exact List.map_congr_left fun u hu => by simp [hl u hu]
  rw [List.map_append, List.map_cons, others older fun u hu => hplace u (List.mem_append_left _ hu),
    others younger fun u hu => hplace u (List.mem_append_right _ hu), if_pos ⟨rfl, ht⟩]

/-- The M request of a transaction with its address. -/
theorem Tx.request_of_phys {t : Tx} {addr : Nat} (h : t.phys = some addr) : t.request =
    { kind := t.req.kind, addr := addr, length := t.req.length, enables := t.req.enables, data := t.req.data
      tag := t.req.tag } := by
  simp [Tx.request, h]

theorem State.grant_of_p {older younger : List Tx} {t : Tx} {addr : Nat} (hx : s.grantee = some .p)
    (h : s.pTracker = older ++ t :: younger) (ho : ∀ u ∈ older, u.state ≠ .accepted) (ht : t.state = .accepted)
    (hplace : ∀ u ∈ older ++ younger, u.place ≠ t.place) (hphys : t.phys = some addr) : s.grant =
      { s with
        pTracker := older ++ { t with state := .issued } :: younger
        mRequest := some
          { kind := t.req.kind, addr := addr, length := t.req.length, enables := t.req.enables, data := t.req.data
            tag := t.req.tag }
        outstanding := s.outstanding ++ [{ owner := .port .p t.place, kind := t.req.kind, length := t.req.length }]
        pPassed := 0, cPassed := if s.presented.isSome then s.cPassed + 1 else 0 } := by
  have tracker : (s.countPassed .p).tracker .p = older ++ t :: younger := h
  have hpres : (s.countPassed .p).presents .p = some t := State.presents_of_split tracker ho ht
  rw [State.grant_of_grantee hx, State.grantTo]
  simp only [hpres]
  rw [State.grantTx, tracker, map_issued_of_split ht hplace, Tx.request_of_phys hphys]
  rfl

theorem State.grant_of_s {older younger : List Tx} {t : Tx} {addr : Nat} (hx : s.grantee = some .s)
    (h : s.sTracker = older ++ t :: younger) (ho : ∀ u ∈ older, u.state ≠ .accepted) (ht : t.state = .accepted)
    (hplace : ∀ u ∈ older ++ younger, u.place ≠ t.place) (hphys : t.phys = some addr) : s.grant =
      { s with
        sTracker := older ++ { t with state := .issued } :: younger
        mRequest := some
          { kind := t.req.kind, addr := addr, length := t.req.length, enables := t.req.enables, data := t.req.data
            tag := t.req.tag }
        outstanding := s.outstanding ++ [{ owner := .port .s t.place, kind := t.req.kind, length := t.req.length }]
        pPassed := if (s.presents .p).isSome then s.pPassed + 1 else 0
        cPassed := if s.presented.isSome then s.cPassed + 1 else 0 } := by
  have tracker : (s.countPassed .s).tracker .s = older ++ t :: younger := h
  have hpres : (s.countPassed .s).presents .s = some t := State.presents_of_split tracker ho ht
  rw [State.grant_of_grantee hx, State.grantTo]
  simp only [hpres]
  rw [State.grantTx, tracker, map_issued_of_split ht hplace, Tx.request_of_phys hphys]
  rfl

theorem State.grant_of_engine {e : EngineReq} {w : MRequest} (hx : s.grantee = some .engine) (he : s.presented = some e)
    (hw : s.engineRequest e = some w) (hnow : s.readyNow = []) : s.grant =
      { s with
        mRequest := some w
        outstanding := s.outstanding ++ [{ owner := .engine e, kind := w.kind, length := w.length }]
        ready := s.ready.filter (· != e)
        presented := ((s.ready.filter (· != e)).find? s.demandedReq).or (s.ready.filter (· != e)).head?
        pPassed := if (s.presents .p).isSome then s.pPassed + 1 else 0
        cPassed := 0 } := by
  have hpres : (s.countPassed .engine).presented = some e := he
  have hreq : (s.countPassed .engine).engineRequest e = some w := hw
  have gone : (if (some e).any (fun x => x == e) = true then none else some e) = none := by simp
  rw [State.grant_of_grantee hx, State.grantTo]
  simp only [hpres, State.grantEngine_of_request hreq]
  simp only [State.enginePresent, State.withdraw, State.sendOut, State.countPassed, he, gone, State.firstReady, hnow,
    List.filter_nil, List.append_nil]
  rfl

/-- Settles O36. -/
theorem grantSendsTheRequest : Obligations.GrantSendsTheRequest := by
  intro s hup
  rw [exec_arbiterGrant_of_up hup]
  refine ⟨fun h => ?_, fun hr hl h => ?_, fun h => congrArg _ (State.grant_of_none h),
    fun older t younger hx h ho ht hplace addr hphys => congrArg _ (State.grant_of_p hx h ho ht hplace hphys),
    fun older t younger hx h ho ht hplace addr hphys => congrArg _ (State.grant_of_s hx h ho ht hplace hphys),
    fun e w hx he hw hnow => congrArg _ (State.grant_of_engine hx he hw hnow), fun k w hw => ?_, fun j x g hj hg => ?_⟩
  · obtain h | h | ⟨he, hp, hs⟩ := h
    · exact State.grantee_eq_none_of_not_canGrant (.inl h)
    · exact State.grantee_eq_none_of_not_canGrant (.inr h)
    · exact State.grantee_eq_none_of_quiet ((s.presents_eq_none_iff .p).2 hp) ((s.presents_eq_none_iff .s).2 hs) he
  · have some_of : ∀ port, (∃ t ∈ s.tracker port, t.state = .accepted) → (s.presents port).isSome := by
      rintro port ⟨t, ht, hst⟩
      rw [Option.isSome_iff_ne_none, ne_eq, s.presents_eq_none_iff]
      exact fun h => h t ht hst
    refine State.grantee_ne_none hr hl ?_
    obtain h | h | h := h
    · exact .inr (.inl (Option.isSome_iff_ne_none.2 h))
    · exact .inl (some_of .p h)
    · exact .inr (.inr (some_of .s h))
  · simp only [State.engineRequest, hw]
  · have request : s.engineRequest (.slot j) = some (x.request g.defn) := by
      simp only [State.engineRequest, hj, hg, Option.map_some]
    rw [request]
    refine ⟨fun hp => ?_, fun hp => ?_⟩ <;> simp only [Copy.request, hp] <;> rfl

/-! ### Memory error reports (R143 to R146) -/

theorem Region.not_reportFences (h : ¬ g.fencesAt) : ¬ g.reportFences false = true := by
  rw [g.reportFences_iff]
  rintro ⟨hh, hc, hl, hf | hs⟩
  · cases hf
  · exact h ⟨hh, hc, hl, hs⟩

theorem State.reportError_of_not_fences (hg : s.region? k = some g) {third : Bool} (h : ¬ g.reportFences third = true) :
    s.reportError k third = s.putRegion k (some g.afterReport) := by
  simp only [State.reportError, hg]
  rw [if_neg h, State.modRegion_of_some s k _ g hg, g.reported_eq]

theorem State.reportError_of_fences (hg : s.region? k = some g) {third : Bool} (h : g.reportFences third = true) :
    s.reportError k third = (s.putRegion k (some g.afterReport)).fence k := by
  simp only [State.reportError, hg]
  rw [if_pos h, State.modRegion_of_some s k _ g hg, g.reported_eq]

/-- An M response goes to the owner of the oldest outstanding request. -/
theorem exec_mResponse {o : Outstanding} {rest : List Outstanding} (hup : s.resetn = true) (ho : s.outstanding = o :: rest)
    (status : MStatus) (data : List Word) :
    exec (.mResponse status data) s = .next ({ s with outstanding := rest }.handOver o.owner status data).settle := by
  refine congrArg Host.Outcome.next ((State.ifUp_of_up hup _).trans ?_)
  simp only [State.mResponse, ho]

/-! ### A response for a transaction of a port (R13, R20) -/

theorem State.portResponse_of_none {place : Nat} (h : ∀ u ∈ s.tracker port, ¬ (u.place = place ∧ u.state = .issued))
    (status : MStatus) (data : List Word) : s.portResponse port place status data = s := by
  have none_of : (s.tracker port).find? (·.issuedIn place) = none := by
    rw [List.find?_eq_none]
    intro u hu
    simpa [Tx.issuedIn] using h u hu
  simp only [State.portResponse, none_of]

/-- The one transaction in that place is settled. -/
theorem State.portResponse_of_split {place : Nat} {older younger : List Tx} {t : Tx}
    (h : s.tracker port = older ++ t :: younger) (hp : t.place = place) (ht : t.state = .issued)
    (hplace : ∀ v ∈ older ++ younger, v.place ≠ place) (status : MStatus) (data : List Word) :
    s.portResponse port place status data =
      (let u := s.setTracker port
        (older ++ { t with state := .done (portStatus status) (readData t.req status data) } :: younger)
      match status with
      | .okay => u
      | .error => u.upstreamError t) := by
  have issued : t.issuedIn place = true := by simp [Tx.issuedIn, hp, ht]
  have others : ∀ v ∈ older ++ younger, v.issuedIn place = false := fun v hv => by simp [Tx.issuedIn, hplace v hv]
  have found : (s.tracker port).find? (·.issuedIn place) = some t := by
    rw [h, List.find?_append, List.find?_eq_none.2 fun v hv => by simp [others v (List.mem_append_left _ hv)]]
    simp [issued]
  have kept : ∀ l : List Tx, (∀ v ∈ l, v.issuedIn place = false) → l.map (fun u =>
      if u.issuedIn place then { u with state := .done (portStatus status) (readData u.req status data) } else u) = l := by
    intro l hl
    conv_rhs => rw [← List.map_id l]
    exact List.map_congr_left fun u hu => by simp [hl u hu]
  have mapped : (s.tracker port).map (fun u =>
      if u.issuedIn place then { u with state := .done (portStatus status) (readData u.req status data) } else u) =
      older ++ { t with state := .done (portStatus status) (readData t.req status data) } :: younger := by
    rw [h, List.map_append, List.map_cons, kept older fun v hv => others v (List.mem_append_left _ hv),
      kept younger fun v hv => others v (List.mem_append_right _ hv), if_pos issued]
  cases status <;> simp only [State.portResponse, found, mapped]

theorem readData_okay (req : Request) (data : List Word) :
    readData req .okay data = if req.kind = .read then data.take req.length else [] := by
  cases hk : req.kind <;> simp [readData, hk]

theorem readData_error (req : Request) (data : List Word) : readData req .error data = [] := by
  cases hk : req.kind <;> simp [readData, hk]

theorem State.upstreamError_of_none {t : Tx} (h : t.region = none) : s.upstreamError t = s.setDevCond .unmatchedMemerr := by
  simp only [State.upstreamError, h]

theorem State.upstreamError_of_some {t : Tx} (h : t.region = some k) : s.upstreamError t = s.reportError k false := by
  simp only [State.upstreamError, h]

/-- Settles O39. -/
theorem mResponseToAPort : Obligations.MResponseToAPort := by
  intro s port place kind len rest data hup hout
  refine ⟨fun hnone status => ?_, fun older t younger u h hp ht hplace hu => ?_⟩
  · rw [exec_mResponse hup hout]
    refine congrArg (fun u : State => Host.Outcome.next u.settle) (State.portResponse_of_none ?_ status data)
    cases port <;> exact hnone
  · have h' : State.tracker { s with outstanding := rest } port = older ++ t :: younger := by
      cases port <;> exact h
    have run := fun status => State.portResponse_of_split h' hp ht hplace status data
    have failed : State.handOver { s with outstanding := rest } (.port port place) .error data = u.upstreamError t := by
      rw [hu]
      refine (run .error).trans ?_
      simp only [portStatus, readData_error]
    rw [exec_mResponse hup hout, exec_mResponse hup hout]
    refine ⟨?_, fun hr => ?_, fun k g hk hg => ?_⟩
    · refine congrArg (fun u : State => Host.Outcome.next u.settle) ((run .okay).trans ?_)
      simp only [portStatus, readData_okay]
    · refine congrArg (fun u : State => Host.Outcome.next u.settle) (failed.trans ((State.upstreamError_of_none hr).trans ?_))
      have conds : u.devConds = s.devConds := by
        rw [hu]
        cases port <;> rfl
      rw [State.setDevCond, conds]
      rfl
    · rw [State.upstreamError_of_some hk] at failed
      have hg' : u.region? k = some g := by
        rw [hu, State.setTracker_region?]
        exact hg
      refine ⟨fun hnot => ?_, fun hf => ?_⟩
      · exact congrArg (fun u : State => Host.Outcome.next u.settle)
          (failed.trans (State.reportError_of_not_fences hg' (Region.not_reportFences hnot)))
      · refine congrArg (fun u : State => Host.Outcome.next u.settle) (failed.trans (State.reportError_of_fences hg' ?_))
        exact (g.reportFences_iff false).2 ⟨hf.1, hf.2.1, hf.2.2.1, .inr hf.2.2.2⟩

/-! ### A response for a replay write (R105, R108) -/

/-- Settles O42. -/
theorem mResponseToTheReplayUnit : Obligations.MResponseToTheReplayUnit := by
  intro s kind len rest data k w u hup hout hr hu
  rw [exec_mResponse hup hout, exec_mResponse hup hout]
  have run : ∀ status, State.handOver { s with outstanding := rest } (.engine .replay) status data =
      if s.queue.any QRecord.selected then
        match status with
        | .okay => u
        | .error => u.reportError k false
      else u := fun status => by
    rw [hu]
    cases status <;> simp only [State.handOver, State.replayResponse, hr]
  refine ⟨?_, fun hnone => ?_, fun ⟨r, hmem, hsel⟩ g hg => ?_⟩
  · refine congrArg (fun u : State => Host.Outcome.next u.settle) ((run .okay).trans ?_)
    split <;> rfl
  · refine congrArg (fun u : State => Host.Outcome.next u.settle) ((run .error).trans (if_neg ?_))
    simpa using hnone
  · have failed := (run .error).trans (if_pos (List.any_eq_true.2 ⟨r, hmem, hsel⟩))
    have hg' : u.region? k = some g := by
      rw [hu]
      exact hg
    refine ⟨fun hnot => ?_, fun hf => ?_⟩
    · exact congrArg (fun u : State => Host.Outcome.next u.settle)
        (failed.trans (State.reportError_of_not_fences hg' (Region.not_reportFences hnot)))
    · refine congrArg (fun u : State => Host.Outcome.next u.settle) (failed.trans (State.reportError_of_fences hg' ?_))
      exact (g.reportFences_iff false).2 ⟨hf.1, hf.2.1, hf.2.2.1, .inr hf.2.2.2⟩

/-! ### What a fence changes (R147, R148) -/

theorem State.notIssued_eq (s : State) (k : SlotNo) : s.notIssued k = s.unissuedRecords k :=
  List.countP_eq_length_filter.symm

theorem State.fence_region? (s : State) (k j : SlotNo) :
    (s.fence k).region? j = if j = k then (s.region? k).map (·.fenced (s.unissuedRecords k)) else s.region? j := by
  rw [State.region?, State.fence_table, ← s.region?_modRegion]
  rfl

theorem State.fence_slots (s : State) (k : SlotNo) (j : Fin 4) :
    (s.fence k).slots[j] = if (s.slots[j]).holds k then s.givenUp j else s.slots[j] := by
  have slots : (s.fence k).slots = Vector.ofFn fun j => if (s.slots[j]).holds k then s.givenUp j else s.slots[j] := rfl
  rw [slots, Fin.getElem_fin, Vector.getElem_ofFn]

theorem CopySlot.holds_iff (x : CopySlot) (k : SlotNo) : x.holds k = true ↔ ∃ y, x = .copying y ∧ y.region = k := by
  cases x <;> simp [CopySlot.holds]

theorem State.slotReqOf_eq_false_iff (s : State) (k : SlotNo) (e : EngineReq) : s.slotReqOf k e = false ↔
    ∀ (j : Fin 4) x, e = .slot j → s.slots[j] = .copying x → x.region ≠ k := by
  cases e with
  | replay => simp [State.slotReqOf]
  | slot j =>
    rw [State.slotReqOf, ← Bool.not_eq_true, CopySlot.holds_iff]
    constructor
    · rintro h j' x ⟨⟩ hx hk
      exact h ⟨x, hx, hk⟩
    · rintro h ⟨x, hx, hk⟩
      exact h j x rfl hx hk

theorem State.givenUp_of_copying {j : Fin 4} {x : Copy} (h : s.slots[j] = .copying x) : s.givenUp j =
    if s.outstanding.any (fun o => o.owner == .engine (.slot j)) then .finishing x.region x.phase else .free := by
  simp only [State.givenUp, h, State.slotOutstanding]
  rfl

theorem State.fence_replay (s : State) (k : SlotNo) : (s.fence k).replay = (match s.replay with
    | .waiting w => if s.queue.any (fun r => r.selected && r.region == k) then .idle else .waiting w
    | r => r) := by
  have replay : (s.fence k).replay = if s.replayWaitsFor k then .idle else s.replay := rfl
  rw [replay, State.replayWaitsFor]
  cases s.replay <;> rfl

theorem Option.filter_eq_ite {α : Type} (x : Option α) (p : α → Bool) :
    (if x.any (fun e => !p e) then none else x) = x.filter p := by
  cases x with
  | none => rfl
  | some e => cases h : p e <;> simp [Option.filter, h]

/-- Settles O40: field by field. -/
theorem fenceChangesEveryBlock : Obligations.FenceChangesEveryBlock := by
  intro s k g c hg hc
  have ready : (s.fence k).ready = s.ready.filter fun e => !s.slotReqOf k e := rfl
  have readyNow : (s.fence k).readyNow = s.readyNow.filter fun e => !s.slotReqOf k e := rfl
  have presented : (s.fence k).presented = if s.presented.any (s.slotReqOf k) then none else s.presented := rfl
  have filtered : ∀ stays : EngineReq → Bool,
      (∀ e, stays e = true ↔ ∀ (j : Fin 4) x, e = .slot j → s.slots[j] = .copying x → x.region ≠ k) →
      (s.fence k).ready = s.ready.filter stays ∧ (s.fence k).readyNow = s.readyNow.filter stays ∧
      (s.fence k).presented = s.presented.filter stays := by
    intro stays hstays
    obtain rfl : stays = fun e => !s.slotReqOf k e := funext fun e => by
      rw [Bool.eq_iff_iff, hstays, Bool.not_eq_true', s.slotReqOf_eq_false_iff]
    refine ⟨ready, readyNow, presented.trans ?_⟩
    rw [← Option.filter_eq_ite]
    simp only [Bool.not_not]
  have staysReq : ∀ e, (!s.slotReqOf k e) = true ↔
      ∀ (j : Fin 4) x, e = .slot j → s.slots[j] = .copying x → x.region ≠ k := fun e => by
    rw [Bool.not_eq_true', s.slotReqOf_eq_false_iff]
  obtain ⟨-, -, pres⟩ := filtered _ staysReq
  refine ⟨?_, fun j hj => ?_, s.fence_queue k, by simp [State.fence], s.fence_replay k, ?_, fun j x hx hk => ?_, fun j hj => ?_, fun e he => ?_,
    fun e he => ?_, filtered, by simp [State.fence]⟩
  · rw [State.fence_region?, if_pos rfl, hg, Option.map_some, Region.fenced_eq, hc, s.notIssued_eq]
    rfl
  · rw [State.fence_region?, if_neg hj]
  · rw [State.fence_pTracker]
    exact List.map_congr_left fun t _ => if_congr (by simp) rfl rfl
  · have held : (s.slots[j]).holds k = true := (CopySlot.holds_iff _ _).2 ⟨x, hx, hk⟩
    rw [State.fence_slots, if_pos held, State.givenUp_of_copying hx, hk]
  · have free : ¬ (s.slots[j]).holds k = true := by
      rw [CopySlot.holds_iff]
      rintro ⟨x, hx, hk⟩
      exact hj x hx hk
    rw [State.fence_slots, if_neg free]
  · rw [ready, List.mem_filter] at he
    exact (staysReq e).1 he.2
  · rw [pres, Option.mem_def, Option.filter_eq_some_iff] at he
    exact (staysReq e).1 he.2

/-! ### A response for a copy slot (R116, R117, R122 to R125) -/

/-- The line a slot gives back. -/
theorem State.modCycle_setLine {x : Copy} (hg : s.region? x.region = some g) (hc : g.cycle = some c)
    (hl : c.lines[x.line]? = some .copying) (l : LineState) (hl' : l.dirtyUnit = 0) :
    s.modCycle x.region (·.setLine x.line l) = s.putRegion x.region (some (g.withCycle
      { c with lines := c.lines.set x.line l, stale := c.stale + l.staleUnit - 1 })) := by
  have counts : LineState.copying.staleUnit = 1 ∧ LineState.copying.dirtyUnit = 0 := ⟨rfl, rfl⟩
  rw [State.modCycle_of_some s x.region _ g c hg hc, c.setLine_of_some x.line l .copying hl, hl', counts.1, counts.2]
  rfl

/-- A copy that fails neither for the third time nor with a fencing report is read again. -/
theorem State.copyError_retries {j : Fin 4} {x : Copy} (hj : s.slots[j] = .copying x) (hg : s.region? x.region = some g)
    (ha : x.attempt < 3) (hf : ¬ g.fencesAt) : s.copyError j x =
      (s.putRegion x.region (some g.afterReport)).copyRetry j x := by
  have early : decide (Config.copyAttempts ≤ x.attempt) = false := by simpa [Config.copyAttempts] using ha
  have slot : (s.putRegion x.region (some g.afterReport)).slots[j] = .copying x := hj
  simp only [State.copyError, early, State.reportError_of_not_fences hg (Region.not_reportFences hf), slot]

/-- A fence leaves no slot COPYING a line of the region. -/
theorem State.fence_not_copying (s : State) (k : SlotNo) (j : Fin 4) (x : Copy) (h : (s.fence k).slots[j] = .copying x) :
    x.region ≠ k ∧ s.slots[j] = .copying x := by
  rw [State.fence_slots] at h
  split at h
  · rename_i held
    obtain ⟨y, hy, -⟩ := (CopySlot.holds_iff _ _).1 held
    rw [State.givenUp_of_copying hy] at h
    split at h <;> cases h
  · rename_i held
    refine ⟨fun hk => held ((CopySlot.holds_iff _ _).2 ⟨x, h, hk⟩), h⟩

theorem State.copyError_fences {j : Fin 4} {x : Copy} (hj : s.slots[j] = .copying x) (hg : s.region? x.region = some g)
    (h : g.reportFences (Config.copyAttempts ≤ x.attempt) = true) :
    s.copyError j x = (s.putRegion x.region (some g.afterReport)).fence x.region := by
  simp only [State.copyError, State.reportError_of_fences hg h]
  split
  · rename_i y hy
    obtain ⟨hne, hy'⟩ := State.fence_not_copying _ _ _ _ hy
    have : (s.putRegion x.region (some g.afterReport)).slots[j] = .copying x := hj
    rw [this] at hy'
    cases hy'
    exact absurd rfl hne
  · rfl
  · rfl

/-- Settles O41. -/
theorem mResponseToACopySlot : Obligations.MResponseToACopySlot := by
  intro s j kind len rest data hup hout hnow
  refine ⟨fun k ph status hj => ?_, fun x g c hj hg hc hl => ?_⟩
  · rw [exec_mResponse hup hout]
    simp only [State.handOver, State.slotResponse, hj]
    rfl
  · have hj' : State.slots { s with outstanding := rest } = s.slots := rfl
    have next : ∀ {status : MStatus} {u : State},
        State.slotResponse { s with outstanding := rest } j status data = u →
        exec (.mResponse status data) s = .next u.settle := fun h => by
      rw [exec_mResponse hup hout]
      exact congrArg (fun u : State => Host.Outcome.next u.settle) h
    have failed : x.ending = false → State.slotResponse { s with outstanding := rest } j .error data =
        State.copyError { s with outstanding := rest } j x := fun he => by
      cases hp : x.phase <;> simp [State.slotResponse, hj, he]
    refine ⟨fun status he => next ?_, fun he hp => next ?_, fun he hp => next ?_, fun he hlife hhealth ha hf => next ?_,
      fun he hlife hhealth h => next ?_⟩
    · simp only [State.slotResponse, hj, he, if_true, State.endRetired]
      have gives : State.region? (State.setSlot { s with outstanding := rest } j .free) x.region = some g := hg
      rw [State.modCycle_setLine gives hc hl .stale rfl]
      rfl
    · simp only [State.slotResponse, hj, he, hp, State.copyWrite, State.makeReady, State.setSlot, hnow]
      rfl
    · simp only [State.slotResponse, hj, he, hp, State.endCopy]
      have gives : State.region? (State.setSlot { s with outstanding := rest } j .free) x.region = some g := hg
      refine (State.modCycle_setLine gives hc hl .sync rfl).trans ?_
      rfl
    · rw [failed he]
      refine (State.copyError_retries (s := { s with outstanding := rest }) hj hg ha hf).trans ?_
      simp only [State.copyRetry, State.makeReady, State.setSlot, State.putRegion, hnow]
      rfl
    · rw [failed he]
      refine State.copyError_fences (s := { s with outstanding := rest }) hj hg ?_
      rw [Region.reportFences_iff, hc]
      refine ⟨hhealth, rfl, hlife, h.imp (fun h => ?_) fun h => h.2.2.2⟩
      simpa [Config.copyAttempts] using h

end Sys2Proof.Machine
end

section
/-! PROOFS. The arbiter's floor over many grants (R164, R165), the scan-side mapping (R131), and the publish cycle's commands: seals, the
entry into SEALED, the end of a drain, the return to DEFINED and epochs (R40, R69 to R81, R87, R134 to R136). -/

namespace Sys2Proof.Machine

variable {s : State} {k : SlotNo} {g : Region} {c : Cycle}

/-! ### Grants under full load -/

/-- Neither count has reached the floor: the S path, until one has. -/
theorem grantsTo_s {f : Nat} (m n : Nat) : ∀ p c, p + m ≤ f - 1 → c + m ≤ f - 1 →
    grantsTo f (m + n) p c = List.replicate m .s ++ grantsTo f n (p + m) (c + m) := by
  induction m with
  | zero => intro p c _ _; simp
  | succ m ih =>
    intro p c hp hc
    have choice : chooseGrant f p c true true true = some .s := by
      have hp' : ¬ f - 1 ≤ p := by omega
      have hc' : ¬ f - 1 ≤ c := by omega
      simp [chooseGrant, hp', hc']
    rw [show m + 1 + n = (m + n) + 1 by omega, grantsTo, choice]
    simp only [passedOver, if_true, Bool.false_eq_true, if_false,
      show (Position.s == Position.p) = false from rfl, show (Position.s == Position.engine) = false from rfl]
    rw [ih (p + 1) (c + 1) (by omega) (by omega), List.replicate_succ, List.cons_append]
    congr 3 <;> omega

theorem grantsTo_p {f p : Nat} (n c : Nat) (hp : f - 1 ≤ p) : grantsTo f (n + 1) p c = .p :: grantsTo f n 0 (c + 1) := by
  have choice : chooseGrant f p c true true true = some .p := by
    simp only [chooseGrant, Bool.true_and, decide_eq_true_eq]
    rw [if_pos hp]
  rw [grantsTo, choice]
  rfl

theorem grantsTo_engine {f p c : Nat} (n : Nat) (hp : p < f - 1) (hc : f - 1 ≤ c) :
    grantsTo f (n + 1) p c = .engine :: grantsTo f n (p + 1) 0 := by
  have choice : chooseGrant f p c true true true = some .engine := by
    simp only [chooseGrant, Bool.true_and, decide_eq_true_eq]
    rw [if_neg (by omega), if_pos hc]
  rw [grantsTo, choice]
  rfl

/-- One period of the floor. -/
theorem grantsTo_period {f : Nat} (hf : 2 ≤ f) (n : Nat) :
    grantsTo f (f + n) 1 0 = List.replicate (f - 2) .s ++ [.p, .engine] ++ grantsTo f n 1 0 := by
  rw [show f + n = (f - 2) + (n + 1 + 1) by omega, grantsTo_s (f - 2) _ 1 0 (by omega) (by omega),
    grantsTo_p _ _ (by omega), grantsTo_engine _ (by omega) (by omega)]
  simp

theorem grantsTo_periods {f : Nat} (hf : 2 ≤ f) (n : Nat) :
    grantsTo f (f * n) 1 0 = (List.replicate n (List.replicate (f - 2) Position.s ++ [.p, .engine])).flatten := by
  induction n with
  | zero => simp [grantsTo]
  | succ n ih =>
    rw [show f * (n + 1) = f + f * n by rw [Nat.mul_succ, Nat.add_comm], grantsTo_period hf, ih, List.replicate_succ,
      List.flatten_cons]

/-- Each grant that passes the P path over brings it nearer to the floor. -/
theorem p_mem_grantsTo {f : Nat} (n : Nat) : ∀ p c, p < f → f ≤ n + p → .p ∈ grantsTo f n p c := by
  induction n with
  | zero => intro p c hp hn; omega
  | succ n ih =>
    intro p c hp hn
    by_cases hpf : f - 1 ≤ p
    · rw [grantsTo_p n c hpf]
      exact List.mem_cons_self
    · by_cases hc : f - 1 ≤ c
      · rw [grantsTo_engine n (by omega) hc]
        exact List.mem_cons_of_mem _ (ih _ _ (by omega) (by omega))
      · rw [Nat.add_comm n 1, grantsTo_s 1 n p c (by omega) (by omega)]
        exact List.mem_append_right _ (ih _ _ (by omega) (by omega))

/-- Each grant that passes the copy engine over brings it nearer to the floor; from there only one grant to the P path can come
before its own. -/
theorem engine_mem_grantsTo {f : Nat} (hf : 2 ≤ f) (n : Nat) : ∀ p c, p < f → c ≤ f → (c = f → p = 0) → f + 1 ≤ n + c →
    .engine ∈ grantsTo f n p c := by
  induction n with
  | zero => intro p c _ hc _ hn; omega
  | succ n ih =>
    intro p c hp hc hpc hn
    by_cases hpf : f - 1 ≤ p
    · rw [grantsTo_p n c hpf]
      exact List.mem_cons_of_mem _ (ih 0 (c + 1) (by omega) (by omega) (fun _ => rfl) (by omega))
    · by_cases hcf : f - 1 ≤ c
      · rw [grantsTo_engine n (by omega) hcf]
        exact List.mem_cons_self
      · rw [Nat.add_comm n 1, grantsTo_s 1 n p c (by omega) (by omega)]
        exact List.mem_append_right _ (ih _ _ (by omega) (by omega) (by omega) (by omega))

/-- Settles O37: a first run of the S path up to the floor, then periods. -/
theorem grantsFallIntoPeriodsOfTheFloor : Obligations.GrantsFallIntoPeriodsOfTheFloor := by
  intro f n hf
  refine ⟨?_, fun p c hp hc hpc => ⟨p_mem_grantsTo f p c hp (by omega), engine_mem_grantsTo hf (f + 1) p c hp hc hpc (by omega)⟩⟩
  rw [show f + 1 + f * n = (f - 1) + (f * n + 1 + 1) by omega, grantsTo_s (f - 1) _ 0 0 (by omega) (by omega),
    grantsTo_p _ _ (by omega), grantsTo_engine _ (by omega) (by omega), grantsTo_periods hf]
  simp

/-! ### The scan-side mapping -/

theorem Rotation.physLine_outside (r : Rotation) (o : Nat) {i : Nat} (h : i < r.head ∨ r.head + r.body ≤ i) :
    r.physLine o i = i := by
  simp only [Rotation.physLine, Bool.or_eq_true, decide_eq_true_eq]
  exact if_pos h

theorem Rotation.physLine_body (r : Rotation) (o : Nat) {i : Nat} (h : r.head ≤ i) (h' : i < r.head + r.body) :
    r.physLine o i = r.head + (i - r.head + o) % r.body := by
  simp only [Rotation.physLine, Bool.or_eq_true, decide_eq_true_eq]
  exact if_neg (by omega)

theorem Rotation.physLine_mem_body (r : Rotation) (o : Nat) (hb : 1 ≤ r.body) {i : Nat} (h : r.head ≤ i)
    (h' : i < r.head + r.body) : r.head ≤ r.physLine o i ∧ r.physLine o i < r.head + r.body := by
  rw [r.physLine_body o h h']
  have := Nat.mod_lt (i - r.head + o) hb
  omega

/-- Two body lines with one image are the same. -/
theorem Rotation.physLine_injective (r : Rotation) (o : Nat) (hb : 1 ≤ r.body) {i i' : Nat}
    (h : r.physLine o i = r.physLine o i') : i = i' := by
  have sides : ∀ j, (j < r.head ∨ r.head + r.body ≤ j) ∨ (r.head ≤ j ∧ j < r.head + r.body) := fun j => by omega
  rcases sides i with hi | ⟨hi, hi'⟩ <;> rcases sides i' with hj | ⟨hj, hj'⟩
  · rwa [r.physLine_outside o hi, r.physLine_outside o hj] at h
  · have := r.physLine_mem_body o hb hj hj'
    rw [← h, r.physLine_outside o hi] at this
    omega
  · have := r.physLine_mem_body o hb hi hi'
    rw [h, r.physLine_outside o hj] at this
    omega
  · rw [r.physLine_body o hi hi', r.physLine_body o hj hj', Nat.add_left_cancel_iff] at h
    have congr := Nat.ModEq.add_right_cancel' o h
    have eq := Nat.ModEq.eq_of_lt_of_lt congr (by omega) (by omega)
    omega

/-- Each body line is reached: from the line that lies the offset before it. -/
theorem Rotation.physLine_surjective (r : Rotation) (o : Nat) (hb : 1 ≤ r.body) {l : Nat} (h : r.head ≤ l)
    (h' : l < r.head + r.body) : ∃ i, r.head ≤ i ∧ i < r.head + r.body ∧ r.physLine o i = l := by
  have hmod := Nat.mod_lt o hb
  have hback := Nat.mod_lt (l - r.head + (r.body - o % r.body)) hb
  refine ⟨r.head + (l - r.head + (r.body - o % r.body)) % r.body, by omega, by omega, ?_⟩
  rw [r.physLine_body o (by omega) (by omega), Nat.add_sub_cancel_left, Nat.mod_add_mod]
  have whole : l - r.head + (r.body - o % r.body) + o = l - r.head + r.body * (1 + o / r.body) := by
    have := Nat.div_add_mod o r.body
    rw [Nat.mul_add, Nat.mul_one]
    omega
  rw [whole, Nat.add_mul_mod_self_left, Nat.mod_eq_of_lt (by omega)]
  omega

/-- Settles O50. -/
theorem scanMappingPermutesTheBody : Obligations.ScanMappingPermutesTheBody := by
  intro g r x hr hx hb hsize
  have phys : ∀ i, g.physLine i = r.physLine x.offset i := fun i => by simp only [Region.physLine, hr, hx]
  have sides : ∀ j, (j < r.head ∨ r.head + r.body ≤ j) ∨ (r.head ≤ j ∧ j < r.head + r.body) := fun j => by omega
  simp only [phys]
  refine ⟨fun i hi => ?_, fun i hi => r.physLine_outside _ hi, fun i h h' => r.physLine_mem_body _ hb h h', fun l hl => ?_,
    fun ho i => ?_⟩
  · rcases sides i with hout | ⟨h, h'⟩
    · rwa [r.physLine_outside _ hout]
    · have := r.physLine_mem_body x.offset hb h h'
      omega
  · obtain ⟨i, hi, hreach⟩ : ∃ i < g.defn.size, r.physLine x.offset i = l := by
      rcases sides l with hout | ⟨h, h'⟩
      · exact ⟨l, hl, r.physLine_outside _ hout⟩
      · obtain ⟨i, _, hi, hreach⟩ := r.physLine_surjective x.offset hb h h'
        exact ⟨i, by omega, hreach⟩
    exact ⟨i, hi, hreach, fun i' h' => r.physLine_injective _ hb (h'.trans hreach.symm)⟩
  · rcases sides i with hout | ⟨h, h'⟩
    · exact r.physLine_outside _ hout
    · rw [r.physLine_body _ h h', ho, Nat.add_zero, Nat.mod_eq_of_lt (by omega)]
      omega

/-! ### Seals -/

theorem Definition.inGroups_iff (d : Definition) (groups : Fin 4 → Bool) :
    d.inGroups groups = true ↔ ∃ x ∈ d.double, groups x.group = true := by
  cases h : d.double <;> simp [Definition.inGroups, h]

theorem Region.modCycle_of_some (hc : g.cycle = some c) (f : Cycle → Cycle) : g.modCycle f = g.withCycle (f c) := by
  simp only [Region.modCycle, Region.withCycle, hc, Option.map_some]

theorem Region.modCycle_of_none (hc : g.cycle = none) (f : Cycle → Cycle) : g.modCycle f = g := by
  simp only [Region.modCycle, hc, Option.map_none]
  rw [← hc]

/-- A seal writes nothing but the region table. -/
theorem State.sealGroups_eq_table (s : State) (groups : Fin 4 → Bool) :
    s.sealGroups groups = { s with table := (s.sealGroups groups).table } := by
  simp only [State.sealGroups, State.mapRegions]

/-- One seal for every ACTIVE double region of the groups. -/
theorem State.sealGroups_sealedTo (s : State) (groups : Fin 4 → Bool) :
    sealedTo s (s.sealGroups groups) fun n => groups n = true := by
  refine ⟨fun k hk => by rw [s.region?_sealGroups, hk]; rfl, fun k g hg => ?_⟩
  have region : (s.sealGroups groups).region? k = some
      (if g.life == .active && g.defn.inGroups groups then g.modCycle (·.takeSeal s.queue k) else g) := by
    rw [s.region?_sealGroups, hg]
    rfl
  rw [region]
  refine ⟨fun d c hl hd hgr hc => ⟨c.takeSeal s.queue k, ?_, Cycle.takeSeal_reaches s c k⟩, fun h => ?_⟩
  · have reached : g.defn.inGroups groups = true := (Definition.inGroups_iff _ _).2 ⟨d, hd, hgr⟩
    rw [if_pos (by simp [hl, reached]), Region.modCycle_of_some hc]
  · split
    · rename_i hyes
      simp only [Bool.and_eq_true, beq_iff_eq, Definition.inGroups_iff] at hyes
      obtain ⟨hl, d, hd, hgr⟩ := hyes
      obtain hne | hnone | hnot := h
      · exact absurd hl hne
      · rw [Region.modCycle_of_none hnone]
      · exact absurd hgr (hnot d hd)
    · rfl

/-- The mask of SEAL names groups alone exactly when it is below 16. -/
theorem mask_and_eq_zero_iff (mask : Byte) : mask &&& (0xF0 : Byte) = 0 ↔ mask.toNat < 16 := by
  have shifted : mask &&& (0xF0 : Byte) = (mask >>> 4) <<< 4 := by
    refine BitVec.eq_of_getLsbD_eq fun i hi => ?_
    have high : ∀ i < 8, (0xF0 : Byte).getLsbD i = decide (4 ≤ i) := by decide
    rw [BitVec.getLsbD_and, high i hi, BitVec.getLsbD_shiftLeft, BitVec.getLsbD_ushiftRight]
    by_cases h : 4 ≤ i
    · simp [h, hi]
    · simp [h]
  rw [shifted, ← BitVec.toNat_inj, BitVec.toNat_shiftLeft, BitVec.toNat_ushiftRight, Nat.shiftRight_eq_div_pow,
    Nat.shiftLeft_eq]
  have := mask.isLt
  change mask.toNat / 2 ^ 4 * 2 ^ 4 % 2 ^ 8 = 0 ↔ _
  omega

/-- Settles O45. -/
theorem sealsReachTheActiveRegionsOfTheGroup : Obligations.SealsReachTheActiveRegionsOfTheGroup := by
  intro s
  refine ⟨fun line hup => ⟨s.sealGroups (· == line), congrArg Host.Outcome.next (State.ifUp_of_up hup _),
    s.sealGroups_eq_table _, ?_⟩, fun slot mask hup => ?_⟩
  · simpa using s.sealGroups_sealedTo (· == line)
  · have run : exec (.sealGroups slot mask) s = .next (if mask &&& 0xF0 = 0 then
        (s.sealGroups fun n => mask.getLsbD n.val).answer 1 .ack [] else s.answer 1 .badarg []) :=
      congrArg Host.Outcome.next (s.deviceCommand_of_up 1 _ hup)
    rw [run]
    refine ⟨fun hm => ⟨_, congrArg Host.Outcome.next (if_pos ((mask_and_eq_zero_iff mask).2 hm)), ?_, ?_⟩, fun hm => ?_⟩
    · rw [s.sealGroups_eq_table fun n => mask.getLsbD n.val]
      rfl
    · simpa only [sealedTo, State.answer_region?] using s.sealGroups_sealedTo fun n => mask.getLsbD n.val
    · rw [if_neg (mt (mask_and_eq_zero_iff mask).1 (by omega))]
      rfl

/-! ### The entry into SEALED, the end of a drain, the return to DEFINED -/

theorem exec_sealedEntry_of_up (hup : s.resetn = true) (k : SlotNo) :
    exec (.sealedEntry k) s = .next (s.modRegion k (·.sealedEntry s.queue k)) :=
  congrArg Host.Outcome.next (State.ifUp_of_up hup _)

theorem exec_drainEnd_of_up (hup : s.resetn = true) (k : SlotNo) :
    exec (.drainEnd k) s = .next (s.modRegion k (·.drainEnd s.queue k)) :=
  congrArg Host.Outcome.next (State.ifUp_of_up hup _)

/-- The record when the publish controller looks at its cycle items. -/
theorem Region.sealedEntry_of_active (hl : g.life = .active) (hc : g.cycle = some c) (queue : List QRecord) (k : SlotNo) :
    g.sealedEntry queue k =
      g.withCycle (if c.pub = .sealWait ∧ c.readyToSeal queue k = true then { c with pub := .isSealed } else c) := by
  rw [Region.sealedEntry, if_pos hl, Region.modCycle_of_some hc]

theorem Region.drainEnd_of_active (hl : g.life = .active) (hc : g.cycle = some c) (queue : List QRecord) (k : SlotNo) :
    g.drainEnd queue k =
      g.withCycle (if c.pub = .draining ∧ c.readers c.draft = 0 then c.endDrain queue k else c) := by
  rw [Region.drainEnd, if_pos hl, Region.modCycle_of_some hc]

theorem Region.withCycle_self (hc : g.cycle = some c) : g.withCycle c = g := by
  rw [Region.withCycle, ← hc]

/-- A region that is not ACTIVE, or has no cycle items, takes no report of the counts (R69). -/
theorem Region.controllers_of_not (h : g.life ≠ .active ∨ g.cycle = none) (queue : List QRecord) (k : SlotNo) :
    g.sealedEntry queue k = g ∧ g.drainEnd queue k = g := by
  simp only [Region.sealedEntry, Region.drainEnd]
  obtain hl | hc := h
  · exact ⟨if_neg hl, if_neg hl⟩
  · exact ⟨by rw [Region.modCycle_of_none hc, ite_self], by rw [Region.modCycle_of_none hc, ite_self]⟩

/-- Settles O46. -/
theorem sealedEntryAndDrainEnd : Obligations.SealedEntryAndDrainEnd := by
  intro s k hup
  rw [exec_sealedEntry_of_up hup, exec_drainEnd_of_up hup]
  refine ⟨fun hk => ?_, fun g hg => ⟨fun hnot => ?_, fun c hc hl => ?_⟩⟩
  · rw [s.modRegion_of_none k _ hk, s.modRegion_of_none k _ hk]
    exact ⟨rfl, rfl⟩
  · obtain ⟨hs, hd⟩ := Region.controllers_of_not hnot s.queue k
    rw [s.modRegion_of_some k _ g hg, s.modRegion_of_some k _ g hg, hs, hd, ← Option.mem_def.1 hg, s.putRegion_same]
    exact ⟨rfl, rfl⟩
  · have same : s.putRegion k (some (g.withCycle c)) = s := by
      rw [Region.withCycle_self hc, ← Option.mem_def.1 hg, s.putRegion_same]
    rw [s.modRegion_of_some k _ g hg, s.modRegion_of_some k _ g hg, Region.sealedEntry_of_active hl hc,
      Region.drainEnd_of_active hl hc]
    simp only [Cycle.readyToSeal_iff]
    refine ⟨fun hp hr => ?_, fun hnot => ?_, fun hp hr hpend => ?_, fun hp hr hpend => ?_, fun hnot => ?_⟩
    · rw [if_pos ⟨hp, hr⟩]
    · rw [if_neg (by tauto), same]
    · rw [if_pos ⟨hp, hr⟩, Cycle.endDrain, if_neg (by simp [hpend])]
    · refine ⟨_, congrArg (fun x => Host.Outcome.next (s.putRegion k (some (g.withCycle x)))) (if_pos ⟨hp, hr⟩), ?_⟩
      rw [Cycle.endDrain, if_pos hpend]
      exact Cycle.takeSeal_reaches s _ k
    · rw [if_neg (by rw [Cycle.draft]; unfold Bank.other; tauto), same]

/-- Settles O47. -/
theorem returnToDefinedWhenNothingIsLeft : Obligations.ReturnToDefinedWhenNothingIsLeft := by
  intro s k hup
  have run : exec (.returnToDefined k) s = .next (s.modRegion k (·.returnIf (s.nothingLeft k))) :=
    congrArg Host.Outcome.next (State.ifUp_of_up hup _)
  rw [run]
  refine ⟨fun g hg hl hn => ?_, fun hnot => ?_⟩
  · rw [s.modRegion_of_some k _ g hg, Region.returnIf, if_pos ⟨hl, (s.nothingLeft_iff k).2 hn⟩]
    rfl
  · refine congrArg Host.Outcome.next (s.modRegion_fixed k _ fun g hg => if_neg ?_)
    rw [s.nothingLeft_iff]
    have := hnot g hg
    tauto

/-! ### Epochs -/

theorem Region.changeOffset_eq (g : Region) : g.changeOffset = { g with rot := offsetChanged g } := by
  cases hr : g.defn.rotation with
  | none => simp [Region.changeOffset, offsetChanged, hr]
  | some r =>
    cases hx : g.rot with
    | none => simp [Region.changeOffset, offsetChanged, hr, hx]
    | some x => cases hst : x.staged <;> simp [Region.changeOffset, offsetChanged, hr, hx, Rot.change, hst]

theorem Bank.other_other (x : Bank) : x.other.other = x := by cases x <;> rfl

/-- The health follows a score below 96, and one that falls from WARNED. -/
theorem Region.withScore_of_lowered {n : Nat} (h : g.health = .healthy ∧ n < 96 ∨ g.health = .warned) :
    g.withScore n = { g with score := n, health := if 96 ≤ n then .warned else .healthy } := by
  obtain ⟨hh, hn⟩ | hh := h
  · have low : ¬ 96 ≤ n := by omega
    simp only [Region.withScore, hh, Config.warnedScore, if_neg low]
  · simp only [Region.withScore, hh, Config.warnedScore]

/-- A publish of a region whose health is not FENCED and follows its score. -/
theorem Region.publish_eq (hc : g.cycle = some c) (hh : g.health = .healthy ∧ g.score < 96 ∨ g.health = .warned) :
    g.publish = g.afterPublish c := by
  have cyc : (g.modCycle Cycle.publish) = g.withCycle c.publish := Region.modCycle_of_some hc _
  have offset : (g.withCycle c.publish).changeOffset = { g.withCycle c.publish with rot := offsetChanged g } :=
    (g.withCycle c.publish).changeOffset_eq
  have pub : c.publish = { c with
      front := c.front.other, gen := c.gen + 1, lines := c.lines.map fun l => if l = .dirty then .stale else l
      stale := c.stale + c.dirty, dirty := 0, pub := if c.readers c.front = 0 then .opened else .draining } := by
    simp only [Cycle.publish, Bank.other_other]
  have score : ({ g.withCycle c.publish with rot := offsetChanged g } : Region).withScore (g.score - 1) =
      { g.withCycle c.publish with
        rot := offsetChanged g, score := g.score - 1, health := if 96 ≤ g.score - 1 then .warned else .healthy } :=
    Region.withScore_of_lowered (hh.imp (fun h => ⟨h.1, by omega⟩) id)
  rw [Region.publish, cyc, offset]
  refine (congrArg (Region.setCond · .published) score).trans ?_
  rw [pub]
  rfl

theorem State.region?_epoch_of_some (hg : s.region? k = some g) (source : Source) : (s.epoch source).region? k =
    some (if g.life == .active && g.defn.source == source then g.epoch else g) := by
  rw [s.region?_epoch, hg]
  rfl

/-- Settles O48. -/
theorem epochReachesTheActiveRegionsOfTheSource : Obligations.EpochReachesTheActiveRegionsOfTheSource := by
  intro s source hup
  refine ⟨_, exec_epochEdge_of_up hup source, rfl, fun k hk => ?_, fun k g hg => ⟨fun hnot => ?_, fun hl hsrc => ?_⟩⟩
  · rw [s.region?_epoch, hk]
    rfl
  · have untouched : ¬ (g.life == .active && g.defn.source == source) = true := by
      rw [Bool.and_eq_true, beq_iff_eq, beq_iff_eq]
      tauto
    rw [State.region?_epoch_of_some hg, if_neg untouched]
  · rw [State.region?_epoch_of_some hg, if_pos (by simp [hl, hsrc])]
    refine ⟨fun hc => ?_, fun c hc => ⟨fun hp hh => ?_, fun hp => ?_⟩⟩
    · simp only [Region.epoch, hc]
      rw [g.changeOffset_eq, ← hc]
    · rw [← Region.publish_eq hc hh]
      simp only [Region.epoch, Option.mem_def.1 hc, hp]
    · have missed : g.epoch = g.countMissed := by simp only [Region.epoch, Option.mem_def.1 hc, hp]
      rw [missed]
      rfl

end Sys2Proof.Machine
end

section
/-! PROOFS. The acts of the copy engine and of the replay unit by themselves (R102 to R104, R111 to R115, R120). -/

namespace Sys2Proof.Machine

variable {s : State} {k : SlotNo} {g : Region} {c : Cycle} {line : Nat}

/-- When nothing became ready in the happening its end changes nothing. -/
theorem State.commitReady_of_none (h : s.readyNow = []) : s.commitReady = s := by
  rw [State.commitReady, h, List.append_nil, ← h]

/-! ### Which line a slot takes -/

theorem List.find?_finRange {n : Nat} (p : Fin n → Bool) (j : Fin n) (hj : p j = true) (hlt : ∀ i < j, p i = false) :
    (List.finRange n).find? p = some j := by
  rw [List.find?_eq_some_iff_getElem]
  refine ⟨hj, j.val, by simp, by simp, fun i hi => ?_⟩
  simpa using hlt ⟨i, hi.trans j.isLt⟩ hi

theorem State.freeSlot_eq_some {j : Fin 4} (hj : s.slots[j] = .free) (hlt : ∀ i < j, s.slots[i] ≠ .free) :
    s.freeSlot = some j :=
  List.find?_finRange _ j (by simp [hj]) fun i hi => by simpa using hlt i hi

theorem State.freeSlot_eq_none (h : ∀ j : Fin 4, s.slots[j] ≠ .free) : s.freeSlot = none := by
  simpa [State.freeSlot] using h

theorem State.demandChoice_of_split {older younger : List DemandEntry} {e : DemandEntry}
    (h : s.demand = older ++ e :: younger) (ho : ∀ e' ∈ older, ¬ s.catchUp e'.region e'.line)
    (he : s.catchUp e.region e.line) : s.demandChoice = some e := by
  have front : older.find? (fun e => s.isWork e.region e.line) = none := by
    rw [List.find?_eq_none]
    exact fun e' he' => mt (s.isWork_iff _ _).1 (ho e' he')
  have work := (s.isWork_iff _ _).2 he
  simp [State.demandChoice, h, List.find?_append, front, work]

theorem State.demandChoice_eq_none (h : ∀ e ∈ s.demand, ¬ s.catchUp e.region e.line) : s.demandChoice = none := by
  rw [State.demandChoice, List.find?_eq_none]
  exact fun e he => mt (s.isWork_iff _ _).1 (h e he)

theorem State.lowestWork_of_lowest (hg : s.region? k = some g) (hc : g.cycle = some c) (hw : s.catchUp k line)
    (hlt : ∀ i < line, ¬ s.catchUp k i) : s.lowestWork k = some line := by
  have work := (s.isWork_iff _ _).2 hw
  obtain ⟨g', c', hg', -, hc', -, hl⟩ := s.region_of_isWork work
  obtain rfl : g = g' := Option.some.inj (hg.symm.trans hg')
  obtain rfl : c = c' := Option.some.inj (hc.symm.trans hc')
  have cycle : s.cycle? k = some c := by simp [State.cycle?, hg, hc]
  have inside : line < c.lines.length := (List.getElem?_eq_some_iff.1 hl).1
  simp only [State.lowestWork, cycle]
  rw [List.find?_eq_some_iff_getElem]
  refine ⟨work, line, by simpa using inside, by simp, fun i hi => ?_⟩
  simpa [← s.isWork_iff] using hlt i hi

theorem State.lowestWork_eq_none (h : ∀ i, ¬ s.catchUp k i) : s.lowestWork k = none := by
  simp only [State.lowestWork]
  split
  · rfl
  · rw [List.find?_eq_none]
    exact fun i _ => mt (s.isWork_iff _ _).1 (h i)

/-- The round-robin search reaches each slot at its distance from the pointer. -/
theorem distance_searched (ptr k : SlotNo) :
    ∃ i : Fin 16, ptr + 1 + i = k ∧ ∀ j < i, distance ptr (ptr + 1 + j) < distance ptr k := by
  have reached : ∀ ptr k : Fin 16, ptr + 1 + Fin.ofNat 16 (distance ptr k) = k := by decide
  have far : ∀ ptr i : Fin 16, distance ptr (ptr + 1 + i) = i.val := by decide
  refine ⟨Fin.ofNat 16 (distance ptr k), reached ptr k, fun j hj => ?_⟩
  rw [far]
  conv_rhs => rw [← reached ptr k, far]
  exact hj

theorem State.roundRobin_of_nearest (hw : s.lowestWork k = some line)
    (hnear : ∀ k' i, distance s.rrPtr k' < distance s.rrPtr k → ¬ s.catchUp k' i) : s.roundRobin = some (k, line) := by
  obtain ⟨i, hi, hbefore⟩ := distance_searched s.rrPtr k
  rw [State.roundRobin, searchOrder, List.findSome?_map]
  refine List.findSome?_finRange _ i _ (by simp [hi, hw]) fun j hj => ?_
  have nothing := State.lowestWork_eq_none (s := s) fun l => hnear (s.rrPtr + 1 + j) l (hbefore j hj)
  simp [nothing]

theorem State.roundRobin_eq_none (h : ∀ k i, ¬ s.catchUp k i) : s.roundRobin = none := by
  rw [State.roundRobin, List.findSome?_eq_none_iff]
  intro k _
  rw [State.lowestWork_eq_none (h k)]
  rfl

/-- The take itself, with its read request the youngest ready one. -/
theorem State.takeLine_commitReady {j : Fin 4} (hnow : s.readyNow = []) (hg : s.region? k = some g) (hc : g.cycle = some c)
    (hw : s.catchUp k line) : (s.takeLine j k line).commitReady = s.afterTake j k line g c := by
  obtain ⟨g', c', hg', -, hc', -, hl⟩ := s.region_of_isWork ((s.isWork_iff _ _).2 hw)
  obtain rfl : g = g' := Option.some.inj (hg.symm.trans hg')
  obtain rfl : c = c' := Option.some.inj (hc.symm.trans hc')
  rw [s.takeLine_of_work j hg hc hl]
  simp only [State.commitReady, hnow, insertByRank, State.afterTake, s.replayDemands_iff]
  rfl

/-- Settles O43: the first choice of the demand list or else of the round-robin. -/
theorem copyTakeOrder : Obligations.CopyTakeOrder := by
  intro s hup hnow
  have run : exec .copyTake s = .next s.copyTake.commitReady := congrArg _ (State.ifUp_of_up hup _)
  rw [run]
  refine ⟨fun h => congrArg _ ?_, fun j hj hlt k line g c hg hc hw => ⟨fun older e younger hd ho hek hel => congrArg _ ?_,
    fun hd hlow hnear => congrArg _ ?_⟩⟩
  · have same : s.copyTake = s := by
      obtain h | h := h
      · simp only [State.copyTake, State.freeSlot_eq_none h]
      · simp only [State.copyTake, State.demandChoice_eq_none fun e _ => h e.region e.line, State.roundRobin_eq_none h]
        split <;> rfl
    rw [same, State.commitReady_of_none hnow]
  · subst hek hel
    simp only [State.copyTake, State.freeSlot_eq_some hj hlt, State.demandChoice_of_split hd ho hw]
    exact State.takeLine_commitReady hnow hg hc hw
  · simp only [State.copyTake, State.freeSlot_eq_some hj hlt, State.demandChoice_eq_none hd,
      State.roundRobin_of_nearest (State.lowestWork_of_lowest hg hc hw hlow) hnear]
    exact State.takeLine_commitReady (s := { s with rrPtr := k }) hnow hg hc hw

/-! ### What the replay unit does with its record -/

theorem State.issueReplay_commitReady {r : QRecord} (hnow : s.readyNow = []) (hg : s.region? r.region = some g)
    (hc : g.cycle = some c) (hl : r.line < c.lines.length) : (s.issueReplay r g.defn c).commitReady =
      { s with
        replay := .issued r.region
          { kind := .write, addr := g.defn.bankBase c.front.other + 64 * r.line + 4 * r.first, length := r.count
            enables := r.enables, data := r.data, tag := 0x3F }
        demand := s.demand.filter fun e => !(e.region == r.region && e.line == r.line)
        table := s.table.set r.region (some (g.withCycle (c.dirtied r.line)))
        ready := s.ready ++ [.replay] } := by
  rw [State.issueReplay, State.modCycle_of_some _ r.region _ g c (by exact hg) hc, c.setLine_dirty r.line hl]
  simp only [State.commitReady, State.makeReady, State.undemand, State.putRegion, hnow, insertByRank]
  rfl

/-- The unit's act by the state of the record's line (Table 3-4, R103). -/
theorem State.replayDecide_reaches {r : QRecord} (hnow : s.readyNow = []) (hg : s.region? r.region = some g)
    (hc : g.cycle = some c) (hl : r.line < c.lines.length) :
    replayReaches s (s.replayDecide r).commitReady r g c := by
  have decide_eq : s.replayDecide r =
      if c.line r.line = .copying then { s with replay := .waiting .copying }
      else if c.line r.line = .stale ∧ r.fullLine = false then
        { s.joinDemand .replay r.region r.line with replay := .waiting .demand }
      else if s.readBars r g.defn c then { s with replay := .waiting .read }
      else s.issueReplay r g.defn c := by
    simp only [State.replayDecide, hg, hc]
  have ends : ∀ u : State, u.readyNow = [] → u.commitReady = u := fun u h => State.commitReady_of_none h
  rw [decide_eq]
  refine ⟨fun h => ?_, fun h hfull => ?_, fun h => ?_⟩
  · rw [if_pos h, ends]
    exact hnow
  · have partly : r.fullLine = false := by rwa [← Bool.not_eq_true, r.fullLine_iff]
    rw [if_neg (by simp [h]), if_pos ⟨h, partly⟩, State.joinDemand_replay]
    exact ends _ hnow
  · have notCopying : c.line r.line ≠ .copying := by
      obtain h | h | ⟨h, -⟩ := h <;> simp [h]
    have notPartial : ¬ (c.line r.line = .stale ∧ r.fullLine = false) := by
      rintro ⟨hst, hpart⟩
      obtain h | h | ⟨-, hfull⟩ := h
      · simp [h] at hst
      · simp [h] at hst
      · rw [(r.fullLine_iff).2 hfull] at hpart
        cases hpart
    rw [if_neg notCopying, if_neg notPartial, ← s.readBars_iff]
    refine ⟨fun hbar => ?_, fun hbar => ?_⟩
    · rw [if_pos hbar]
      exact ends _ hnow
    · rw [if_neg hbar]
      exact State.issueReplay_commitReady hnow hg hc hl

theorem find?_of_split {α : Type} {p : α → Bool} {older younger : List α} {x : α} (ho : ∀ y ∈ older, p y = false)
    (hx : p x = true) : (older ++ x :: younger).find? p = some x := by
  have front : older.find? p = none := by simpa [List.find?_eq_none] using ho
  simp [List.find?_append, front, hx]

/-- Settles O44. -/
theorem replaySelectsAndIssues : Obligations.ReplaySelectsAndIssues := by
  intro s hup hnow
  have select : exec .replaySelect s = .next s.replaySelect.commitReady := congrArg _ (State.ifUp_of_up hup _)
  have issue : exec .replayIssue s = .next s.replayIssue.commitReady := congrArg _ (State.ifUp_of_up hup _)
  rw [select, issue]
  refine ⟨fun h => congrArg _ ?_, fun older r younger g c hr hq ho hel hg hc hl => ⟨_, rfl, ?_⟩, fun h => congrArg _ ?_,
    fun w older r younger g c hr hq ho hsel hg hc hl => ⟨_, rfl, ?_⟩⟩
  · have same : s.replaySelect = s := by
      obtain hne | hnone := h
      · cases hr : s.replay with
        | idle => exact absurd hr hne
        | waiting => simp only [State.replaySelect, hr]
        | issued => simp only [State.replaySelect, hr]
      · have none_of : s.queue.find? s.eligible = none := by
          rw [List.find?_eq_none]
          exact fun r hr => mt (s.eligible_iff r).1 (hnone r hr)
        simp only [State.replaySelect, none_of]
        split <;> rfl
    rw [same, State.commitReady_of_none hnow]
  · have older_not : ∀ q ∈ older, s.eligible q = false := fun q hq => by
      rw [← Bool.not_eq_true, s.eligible_iff]
      exact ho q hq
    have yes : s.eligible r = true := (s.eligible_iff r).2 hel
    have found : s.queue.find? s.eligible = some r := by
      rw [hq]
      exact find?_of_split older_not yes
    have marked : markFirst s.eligible s.queue = older ++ { r with selected := true } :: younger := by
      rw [hq]
      exact markFirst_of_split _ older younger r older_not yes
    have run : s.replaySelect = State.replayDecide { s with queue := markFirst s.eligible s.queue } r := by
      simp only [State.replaySelect, hr, found]
    rw [run, marked]
    exact State.replayDecide_reaches (s := { s with queue := older ++ { r with selected := true } :: younger }) hnow hg hc hl
  · have same : s.replayIssue = s := by
      cases hr : s.replay with
      | idle => simp only [State.replayIssue, hr]
      | waiting w => exact absurd hr (h w)
      | issued => simp only [State.replayIssue, hr]
    rw [same, State.commitReady_of_none hnow]
  · have found : s.selectedRecord = some r := by
      rw [State.selectedRecord, hq]
      exact find?_of_split ho hsel
    simp only [State.replayIssue, hr, found]
    exact State.replayDecide_reaches hnow hg hc hl

end Sys2Proof.Machine
end

section
/-! PROOFS. The acts of the rest of a happening, said once in flat form: `State.Act` has a constructor for each thing an act can do, with
the checks that went before it and the fields it writes. Every statement about the rest of a happening is proved over its constructors,
with the phases of `State.settle` where they matter (log 1). -/

namespace Sys2Proof.Machine

variable {s t : State}

/-- What the replay unit does with record `r` of a region with cycle items (R58, R59, R103, R104). -/
inductive State.Decides (s : State) (r : QRecord) (g : Region) (c : Cycle) : State → Prop
  | copying (line : c.line r.line = .copying) : s.Decides r g c { s with replay := .waiting .copying }
  | demand (line : c.line r.line = .stale) (partly : ¬ recordIsFull r) :
      s.Decides r g c { s with
        replay := .waiting .demand
        demand := if ∃ e ∈ s.demand, e.region = r.region ∧ e.line = r.line then s.demand
          else s.demand ++ [⟨r.region, r.line, .replay⟩] }
  | read (line : c.line r.line ≠ .copying) (full : c.line r.line = .stale → recordIsFull r)
      (bars : s.readInTheWay r g.defn c) : s.Decides r g c { s with replay := .waiting .read }
  | issue (line : c.line r.line ≠ .copying) (full : c.line r.line = .stale → recordIsFull r)
      (clear : ¬ s.readInTheWay r g.defn c) :
      s.Decides r g c { s with
        replay := .issued r.region (replayWrite r g.defn c)
        demand := s.demand.filter fun e => !(e.region == r.region && e.line == r.line)
        table := s.table.set r.region (some (g.withCycle (c.setLine r.line .dirty)))
        readyNow := insertByRank .replay s.readyNow }

theorem State.decides (s : State) {r : QRecord} {g : Region} {c : Cycle} (hg : s.region? r.region = some g)
    (hc : g.cycle = some c) : s.Decides r g c (s.replayDecide r) := by
  rcases s.replayDecide_cases r with ⟨hnone, -⟩ | ⟨g', c', hg', hc', hcase⟩
  · simp [State.cycle?, hg, hc] at hnone
  · obtain rfl : g = g' := Option.some.inj (hg.symm.trans hg')
    obtain rfl : c = c' := Option.some.inj (hc.symm.trans hc')
    rcases hcase with ⟨hl, e⟩ | ⟨hl, hpart, e⟩ | ⟨hl, hfull, ⟨hbar, e⟩ | ⟨hbar, e⟩⟩ <;> rw [e]
    · exact .copying hl
    · rw [State.joinDemand_replay]
      exact .demand hl fun hf => by simp [(r.fullLine_iff).2 hf] at hpart
    · exact .read hl (fun h => (r.fullLine_iff).1 (hfull h)) ((s.readBars_iff r g.defn c).1 hbar)
    · have issued : s.issueReplay r g.defn c = { s with
          replay := .issued r.region (replayWrite r g.defn c)
          demand := s.demand.filter fun e => !(e.region == r.region && e.line == r.line)
          table := s.table.set r.region (some (g.withCycle (c.setLine r.line .dirty)))
          readyNow := insertByRank .replay s.readyNow } := by
        rw [State.issueReplay, State.modCycle_of_some _ r.region _ g c (by exact hg) hc]
        rfl
      rw [issued]
      exact .issue hl (fun h => (r.fullLine_iff).1 (hfull h)) fun h => by
        simp [(s.readBars_iff r g.defn c).2 h] at hbar

/-- Everything an act of the rest of a happening can do. -/
inductive State.Act (s : State) : State → Prop
  | same : s.Act s
  | controllers : s.Act s.controllers
  | releaseWrite (x : Tx) (k : SlotNo) (g : Region) (c : Cycle) (reason : HoldReason) (age limit : Nat)
      (held : s.heldTx = some x) (region : x.region = some k) (state : x.state = .held reason age limit)
      (found : s.region? k = some g) (cycle : g.cycle = some c) (why : reason = .demand ∨ reason = .copying)
      (copied : c.line (g.defn.lineOf x.req.addr) = .sync ∨ c.line (g.defn.lineOf x.req.addr) = .dirty) :
      s.Act { s with
        table := s.table.set k (some (g.withCycle (c.setLine (g.defn.lineOf x.req.addr) .dirty)))
        pTracker := (s.modHeld fun t =>
          { t with state := .accepted, bank := some c.draft, phys := some (g.defn.bankAddr c.draft t.req.addr) }).pTracker }
  | releasePost (x : Tx) (k : SlotNo) (g : Region) (c : Cycle) (age limit : Nat) (held : s.heldTx = some x)
      (region : x.region = some k) (state : x.state = .held .queue age limit) (found : s.region? k = some g)
      (cycle : g.cycle = some c) (place : s.queue.length < 32) :
      s.Act { s with
        queue := s.queue ++ [recordOf k g.defn c x.req]
        pTracker := (s.modHeld fun t => { t with state := .done .okay [] }).pTracker }
  | releaseRead (x : Tx) (k : SlotNo) (g : Region) (c : Cycle) (age limit : Nat) (bank : Bank) (held : s.heldTx = some x)
      (region : x.region = some k) (state : x.state = .held .overlap age limit) (found : s.region? k = some g)
      (cycle : g.cycle = some c) (clear : ¬ s.overlapped k g.defn x.req)
      (lands : bank = readLands c (g.defn.lineOf x.req.addr)) :
      s.Act { s with
        table := s.table.set k (some (g.withCycle (c.enter (.reader bank))))
        pTracker := (s.modHeld fun t => { t with
          state := .accepted, bank := some bank, phys := some (g.defn.bankAddr bank t.req.addr)
          count := some (.reader bank) }).pTracker }
  | select (r : QRecord) (g : Region) (c : Cycle) (t : State) (first : s.queue.find? s.eligible = some r)
      (idle : s.replay = .idle) (found : s.region? r.region = some g) (cycle : g.cycle = some c)
      (decides : State.Decides { s with queue := markFirst s.eligible s.queue } r g c t) : s.Act t
  | issue (r : QRecord) (g : Region) (c : Cycle) (w : WaitReason) (t : State) (mem : r ∈ s.queue) (selected : r.selected = true)
      (waits : s.replay = .waiting w) (found : s.region? r.region = some g) (cycle : g.cycle = some c)
      (decides : s.Decides r g c t) : s.Act t
  | take (j : Fin 4) (k : SlotNo) (line : Nat) (ptr : SlotNo) (g : Region) (c : Cycle) (free : s.slots[j] = .free)
      (work : s.catchUp k line) (found : s.region? k = some g) (life : g.life = .active) (cycle : g.cycle = some c)
      (pub : c.pub = .opened ∨ c.pub = .sealWait) (stale : c.lines[line]? = some .stale) :
      s.Act { s with
        rrPtr := ptr
        slots := s.slots.set j (.copying
          { region := k, line := line, source := c.front, target := c.front.other, phase := .read, attempt := 1
            demanded := s.demands k line, ending := false, buffer := [] })
        table := s.table.set k (some (g.withCycle { c with lines := c.lines.set line .copying }))
        demand := s.demand.filter fun e => !(e.region == k && e.line == line)
        replay := if s.replayDemands k line then .waiting .copying else s.replay
        readyNow := insertByRank (.slot j) s.readyNow }
  | present (none : s.presented = none) : s.Act { s with presented := s.firstReady }
  | grantTx (port : Port) (x : Tx) (pPassed cPassed : Nat) (presents : s.presents port = some x) (can : s.canGrant = true) :
      s.Act { (s.setTracker port ((s.tracker port).map fun u =>
          if u.place = x.place ∧ u.state = .accepted then { u with state := .issued } else u)) with
        mRequest := some x.request
        outstanding := s.outstanding ++
          [{ owner := .port port x.place, kind := x.request.kind, length := x.request.length }]
        pPassed := pPassed, cPassed := cPassed }
  | grantEngine (e : EngineReq) (w : MRequest) (pPassed cPassed : Nat) (presents : s.presented = some e)
      (request : s.engineRequest e = some w) (can : s.canGrant = true) :
      s.Act { s with
        ready := s.ready.filter fun x => !(x == e)
        readyNow := s.readyNow.filter fun x => !(x == e)
        presented := ((s.ready.filter fun x => !(x == e)) ++ (s.readyNow.filter fun x => !(x == e))).find? s.demandedReq |>.or
          ((s.ready.filter fun x => !(x == e)) ++ (s.readyNow.filter fun x => !(x == e))).head?
        mRequest := some w
        outstanding := s.outstanding ++ [{ owner := .engine e, kind := w.kind, length := w.length }]
        pPassed := pPassed, cPassed := cPassed }
  | grantNothing (e : EngineReq) (pPassed cPassed : Nat) (presents : s.presented = some e)
      (request : s.engineRequest e = none) (can : s.canGrant = true) :
      s.Act { s with
        ready := s.ready.filter fun x => !(x == e)
        readyNow := s.readyNow.filter fun x => !(x == e)
        presented := none, pPassed := pPassed, cPassed := cPassed }
  | returns : s.Act s.returns
  | endReset (soft : s.softReset = true) (idle : s.mPortIdle) : s.Act s.endSoftReset
  | commit : s.Act s.commitReady

/-! ### Each act is one of these -/

theorem State.act_holdRelease (s : State) : s.Act s.holdRelease := by
  rcases s.holdRelease_cases with e | ⟨x, k, g, c, reason, age, limit, hx, hk, hst, hg, hc, hcase⟩
  · rw [e]
    exact .same
  rcases hcase with ⟨why, copied, e⟩ | ⟨rfl, place, e⟩ | ⟨rfl, clear, bank, lands, e⟩ <;> rw [e]
  · rw [State.modCycle_of_some s k _ g c hg hc]
    exact .releaseWrite x k g c reason age limit hx hk hst hg hc why copied
  · exact .releasePost x k g c age limit hx hk hst hg hc place
  · rw [State.modCycle_of_some s k _ g c hg hc]
    refine .releaseRead x k g c age limit bank hx hk hst hg hc (fun h => ?_) (lands.trans (Cycle.readBank_eq _ _))
    simp [(s.overlapsQueue_iff k g.defn x.req).2 h] at clear

theorem State.act_replaySelect (s : State) : s.Act s.replaySelect := by
  simp only [State.replaySelect]
  split
  · rename_i hidle
    split
    · rename_i r hr
      have hel := (s.eligible_iff r).1 (List.find?_some hr)
      obtain ⟨g, hg, -, c, hc, -⟩ := hel
      exact .select r g c _ hr hidle hg hc (State.decides { s with queue := markFirst s.eligible s.queue } hg hc)
    · exact .same
  · exact .same
  · exact .same

theorem State.act_replayIssue (s : State) : s.Act s.replayIssue := by
  rcases s.replayIssue_cases with e | ⟨r, hr, hsel, ⟨w, hw⟩, e⟩
  · rw [e]
    exact .same
  · rcases s.replayDecide_cases r with ⟨-, e'⟩ | ⟨g, c, hg, hc, -⟩
    · rw [e, e']
      exact .same
    · rw [e]
      exact .issue r g c w _ hr hsel hw hg hc (s.decides hg hc)

theorem State.act_copyTake (s : State) : s.Act s.copyTake := by
  rcases s.copyTake_cases with e | ⟨j, k, line, ptr, -, free, work, e⟩
  · rw [e]
    exact .same
  · obtain ⟨g, c, hg, hl, hc, hp, hst⟩ := s.region_of_isWork work
    rw [e, State.takeLine_of_work { s with rrPtr := ptr } j hg hc hst]
    exact .take j k line ptr g c free ((s.isWork_iff _ _).1 work) hg hl hc hp hst

theorem State.act_enginePresent (s : State) : s.Act s.enginePresent := by
  simp only [State.enginePresent]
  split
  · exact .same
  · exact .present ‹_›

theorem State.canGrant_of_grantee {x : Position} (h : s.grantee = some x) : s.canGrant = true := by
  by_contra hnot
  rw [State.grantee, if_neg hnot] at h
  cases h

theorem State.act_grant (s : State) : s.Act s.grant := by
  match hx : s.grantee with
  | none =>
    rw [State.grant_of_none hx]
    exact .same
  | some x =>
    have can := State.canGrant_of_grantee hx
    obtain ⟨-, -, hp, hs, he⟩ := State.grantee_presents s hx
    have txGrant : ∀ port y z, s.presents port = some y →
        s.Act ((s.countPassed z).grantTx port y) := fun port y z hy => by
      cases port
      · exact .grantTx .p y _ _ hy can
      · exact .grantTx .s y _ _ hy can
    rw [State.grant_of_grantee hx]
    cases x with
    | s =>
      obtain ⟨y, hy⟩ := Option.isSome_iff_exists.1 (hs rfl)
      have hy' : (s.countPassed .s).presents .s = some y := hy
      simp only [State.grantTo, hy']
      exact txGrant .s y .s hy
    | p =>
      obtain ⟨y, hy⟩ := Option.isSome_iff_exists.1 (hp rfl)
      have hy' : (s.countPassed .p).presents .p = some y := hy
      simp only [State.grantTo, hy']
      exact txGrant .p y .p hy
    | engine =>
      obtain ⟨e, hpres⟩ := Option.isSome_iff_exists.1 (he rfl)
      have hpres' : (s.countPassed .engine).presented = some e := hpres
      have gone : (if (some e).any (fun x => x == e) = true then none else some e) = none := by simp
      simp only [State.grantTo, hpres', State.grantEngine]
      split
      · rename_i w hw
        have := State.Act.grantEngine e w (passedOver s.pPassed (s.presents .p).isSome (Position.engine == .p))
          (passedOver s.cPassed s.presented.isSome (Position.engine == .engine)) hpres hw can
        simp only [State.enginePresent, State.withdraw, State.sendOut, State.countPassed, hpres, gone, State.firstReady]
        rw [hpres] at this
        exact this
      · rename_i hw
        have := State.Act.grantNothing e (passedOver s.pPassed (s.presents .p).isSome (Position.engine == .p))
          (passedOver s.cPassed s.presented.isSome (Position.engine == .engine)) hpres hw can
        simpa only [State.withdraw, State.countPassed, hpres, gone] using this

theorem State.act_softResetEnd (s : State) : s.Act s.softResetEnd := by
  simp only [State.softResetEnd]
  split
  · rename_i h
    rw [Bool.and_eq_true, s.portIdle_iff] at h
    exact .endReset h.1 h.2
  · exact .same

/-! ### The rest of a happening -/

/-- Up to the returns: the controllers, the held transaction, the engine, the grant and the engine again. -/
def State.worked (s : State) : State := s.beforeGrant.grant.engineActs

theorem State.settle_eq (s : State) : s.settle = s.worked.returns.softResetEnd.commitReady := rfl

theorem State.engineActs_keeps {P : State → Prop} (keeps : ∀ s t, P s → s.Act t → P t) (h : P s) : P s.engineActs := by
  have advanced : P s.replayAdvance := by
    simp only [State.replayAdvance]
    split
    · exact keeps _ _ h s.act_replaySelect
    · exact keeps _ _ h s.act_replayIssue
    · exact h
  have take : ∀ u, P u → P u.copyTake := fun u hu => keeps _ _ hu u.act_copyTake
  exact keeps _ _ (take _ (take _ (take _ (take _ advanced)))) (State.act_enginePresent _)

/-- What every act but the returns keeps stands when the returns begin. -/
theorem State.worked_keeps {P : State → Prop} (keeps : ∀ s t, P s → s.Act t → P t) (h : P s) : P s.worked :=
  State.engineActs_keeps keeps (keeps _ _ (State.engineActs_keeps keeps
    (keeps _ _ (keeps _ _ h .controllers) (State.act_holdRelease _))) (State.act_grant _))

theorem State.settle_keeps {P : State → Prop} (keeps : ∀ s t, P s → s.Act t → P t) (h : P s) : P s.settle :=
  keeps _ _ (keeps _ _ (keeps _ _ (State.worked_keeps keeps h) .returns) (State.act_softResetEnd _)) .commit

end Sys2Proof.Machine
end

section
/-! PROOFS. The bytes of the responses: STATUS, PROBE, DEVSTATUS and READDEF carry the items of Tables 10-4 to 10-7 in their places
(Section 10.3, 10.8). -/

namespace Sys2Proof.Machine

variable {s : State} {k : SlotNo} {g : Region} {c : Cycle} {slot : Byte}

/-! ### Numbers and bits in bytes -/

@[simp] theorem be16_extract (v : BitVec 16) : be16 (v.extractLsb' 8 8) (v.extractLsb' 0 8) = v := by
  refine BitVec.eq_of_getLsbD_eq fun i hi => ?_
  simp only [be16, BitVec.getLsbD_append, BitVec.getLsbD_extractLsb']
  split
  · simp [*]
  · have : i - 8 < 8 := by omega
    have : 8 + (i - 8) = i := by omega
    simp [*]

@[simp] theorem be32_extract (v : BitVec 32) :
    be32 (v.extractLsb' 24 8) (v.extractLsb' 16 8) (v.extractLsb' 8 8) (v.extractLsb' 0 8) = v := by
  refine BitVec.eq_of_getLsbD_eq fun i hi => ?_
  simp only [be32, BitVec.getLsbD_append, BitVec.getLsbD_extractLsb']
  split
  · simp [*]
  · split
    · have : 8 + (i - 8) = i := by omega
      simp [*]
    · split
      · have : 16 + (i - 8 - 8) = i := by omega
        simp [*]
      · have : 24 + (i - 8 - 8 - 8) = i := by omega
        have : i - 8 - 8 - 8 < 8 := by omega
        simp [*]

theorem getLsbD_bitAt (b : Bool) (i j : Nat) : (bitAt b i).getLsbD j = (b && decide (i = j) && decide (j < 8)) := by
  cases b
  · simp [bitAt]
  · rcases Nat.lt_trichotomy i j with h | rfl | h
    · have : j - i ≠ 0 := by omega
      simp [bitAt, h.ne, this]
    · simp [bitAt]
    · simp [bitAt, h, h.ne']

theorem getLsbD_withSpare (used item spare : Byte) {i : Nat} (h : used.getLsbD i = true) :
    (withSpare used item spare).getLsbD i = item.getLsbD i := by
  simp [withSpare, h]

theorem State.answerRead_eq (s : State) (n : Nat) (d : List Byte) :
    s.answerRead n d = { s with reply := dataOf (n + 3) d, freeCount := s.freeCount + 1 } := rfl

/-! ### DEVSTATUS (Table 10-7) -/

theorem exec_devstatus_of_up (hup : s.resetn = true) (slot : Byte) : exec (.devstatus slot) s =
    .next { s with reply := dataOf 3 s.devstatusBytes, freeCount := s.freeCount + 1 } := by
  have run : exec (.devstatus slot) s = .next (if s.resetn then s.answerRead 0 s.devstatusBytes else s) := rfl
  rw [run, if_pos hup, State.answerRead_eq]

theorem State.busySlots_eq (s : State) : s.busySlots = (s.slots.toList.filter (· ≠ .free)).length := by
  rw [State.busySlots, List.countP_eq_length_filter]
  congr 1
  exact List.filter_congr fun x _ => by simp [bne, beq_eq_decide]

/-- Settles O20. -/
theorem devstatusReportsTheDevice : Obligations.DevstatusReportsTheDevice := by
  intro s slot hup
  refine ⟨s.devstatusBytes, exec_devstatus_of_up hup slot, by simp [State.devstatusBytes, bytes2, bytes16], ?_⟩
  have attn : s.attn = true ↔ (s.devConds &&& s.attnMask ≠ 0 ∨ ∃ j, ∃ g ∈ s.region? j, g.conds &&& s.attnMask ≠ 0) := by
    rw [s.attn_iff]
    exact and_iff_right hup
  simp only [State.devstatusBytes, bytes2, bytes16, List.cons_append, List.nil_append, List.getD_cons_zero,
    List.getD_cons_succ, be16_extract, byte, and_true, s.busySlots_eq, getLsbD_withSpare 0x03 _ _ (i := 0) (by decide),
    getLsbD_withSpare 0x03 _ _ (i := 1) (by decide), BitVec.getLsbD_or, getLsbD_bitAt]
  exact ⟨by simp, by simpa using attn⟩

/-! ### STATUS (Table 10-5) -/

theorem Life.code_eq (l : Life) : l.code = match l with | .defined => 1 | .active => 2 | .retiring => 3 := by
  cases l <;> rfl

theorem Health.code_eq (h : Health) : h.code = match h with | .healthy => 0 | .warned => 1 | .fenced => 2 := by
  cases h <;> rfl

theorem PubState.code_eq (p : PubState) : p.code = match p with
    | .opened => 0 | .sealWait => 1 | .isSealed => 2 | .draining => 3 | .halted => 4 := by
  cases p <;> rfl

theorem exec_status_of_up (hup : s.linkUp) (hk : slot.toNat = k.val) : exec (.status slot) s =
    .next { s with reply := dataOf 3 (statusBytes (s.region? k) s.spare), freeCount := s.freeCount + 1 } := by
  have run : exec (.status slot) s =
    .next (s.slotCommand 0 slot fun k => s.answerRead 0 (statusBytes (s.region? k) s.spare)) := rfl
  rw [run, s.slotCommand_of_slot 0 slot k _ hup hk, State.answerRead_eq]

theorem rotBytes_length (x : Option Rot) : (rotBytes x).length = 6 := by
  cases x <;> rfl

theorem cycleBytes_length (b : Byte) (x : Option Cycle) : (cycleBytes b x).length = 11 := by
  cases x <;> rfl

/-- The bytes of STATUS that every record has, and after them the rotation items and the publish cycle items. -/
theorem statusBytes_some (g : Region) (spare : Nat → Byte) : ∃ head : List Byte, head.length = 11 ∧
    statusBytes (some g) spare = head ++ (rotBytes g.rot ++ cycleBytes (spare 1) g.cycle) :=
  ⟨(statusBytes (some g) spare).take 11, rfl, rfl⟩

theorem statusBytes_rot (g : Region) (spare : Nat → Byte) {n : Nat} (h : n < 6) :
    (statusBytes (some g) spare).getD (11 + n) 0 = (rotBytes g.rot).getD n 0 := by
  obtain ⟨head, hlen, e⟩ := statusBytes_some g spare
  rw [e, List.getD_append_right _ _ _ _ (by omega), hlen, Nat.add_sub_cancel_left,
    List.getD_append _ _ _ _ (by rw [rotBytes_length]; exact h)]

theorem statusBytes_cycle (g : Region) (spare : Nat → Byte) (n : Nat) :
    (statusBytes (some g) spare).getD (17 + n) 0 = (cycleBytes (spare 1) g.cycle).getD n 0 := by
  obtain ⟨head, hlen, e⟩ := statusBytes_some g spare
  have past : 17 + n - 11 - 6 = n := by omega
  rw [e, List.getD_append_right _ _ _ _ (by omega), hlen,
    List.getD_append_right _ _ _ _ (by rw [rotBytes_length]; omega), rotBytes_length, past]

theorem statusBytes_length (slot : Option Region) (spare : Nat → Byte) : (statusBytes slot spare).length = 28 := by
  cases slot with
  | none => rfl
  | some g =>
    obtain ⟨head, hlen, e⟩ := statusBytes_some g spare
    simp [e, hlen, rotBytes_length, cycleBytes_length]

/-- Settles O17. -/
theorem statusReportsTheRecord : Obligations.StatusReportsTheRecord := by
  intro s slot k hup hk
  refine ⟨_, exec_status_of_up hup hk, statusBytes_length _ _, fun h => by rw [h]; rfl, fun g hg => ?_⟩
  rw [Option.mem_def.1 hg]
  have rot : ∀ n < 6, (statusBytes (some g) s.spare).getD (11 + n) 0 = (rotBytes g.rot).getD n 0 := fun n hn =>
    statusBytes_rot g s.spare hn
  have cycle := statusBytes_cycle g s.spare
  refine ⟨g.life.code_eq, ?_, g.health.code_eq, be16_extract _, ⟨rfl, rfl, rfl, rfl⟩, be16_extract _, fun x hx => ?_,
    fun hx n hn => ?_, fun c hc => ?_, fun hc n hn => ?_⟩
  · have flags : (statusBytes (some g) s.spare).getD 1 0 =
      withSpare 0x1F (bitAt g.defn.double.isSome 0 ||| bitAt true 1 ||| bitAt g.rot.isSome 2 |||
        bitAt (g.rot.any fun x => x.staged.isSome) 3 ||| bitAt g.cycle.isSome 4) (s.spare 0) := rfl
    rw [flags]
    refine ⟨?_, ?_, ?_, ?_, ?_⟩ <;> rw [getLsbD_withSpare _ _ _ (by decide)] <;>
      simp [BitVec.getLsbD_or, getLsbD_bitAt, -BitVec.getLsbD_eq_getElem]
  · have word : ∀ n (_ : n + 1 < 6), be16 ((statusBytes (some g) s.spare).getD (11 + n) 0)
        ((statusBytes (some g) s.spare).getD (11 + (n + 1)) 0) =
          be16 ((rotBytes (some x)).getD n 0) ((rotBytes (some x)).getD (n + 1) 0) := fun n hn => by
      rw [rot n (by omega), rot (n + 1) hn, Option.mem_def.1 hx]
    exact ⟨(word 0 (by decide)).trans (be16_extract _), (word 2 (by decide)).trans (be16_extract _),
      (word 4 (by decide)).trans (be16_extract _)⟩
  · rw [rot n hn, hx]
    have absent : rotBytes none = List.replicate 6 0 := rfl
    rw [absent, List.getD_replicate _ hn]
  · rw [Option.mem_def.1 hc] at cycle
    have word : ∀ n, be16 ((statusBytes (some g) s.spare).getD (17 + n) 0)
        ((statusBytes (some g) s.spare).getD (17 + (n + 1)) 0) =
          be16 ((cycleBytes (s.spare 1) (some c)).getD n 0) ((cycleBytes (s.spare 1) (some c)).getD (n + 1) 0) := fun n => by
      rw [cycle n, cycle (n + 1)]
    have flags : (statusBytes (some g) s.spare).getD 18 0 =
      withSpare 0x03 (bitAt c.sealPending 0 ||| bitAt (c.front == .b) 1) (s.spare 1) := cycle 1
    refine ⟨(cycle 0).trans c.pub.code_eq, ?_, ?_, (word 2).trans (be16_extract _), (word 4).trans (be16_extract _),
      (word 6).trans (be16_extract _), cycle 8, cycle 9, cycle 10⟩ <;>
      rw [flags, getLsbD_withSpare _ _ _ (by decide)] <;>
      simp [BitVec.getLsbD_or, getLsbD_bitAt, -BitVec.getLsbD_eq_getElem]
  · rw [cycle n, hc]
    have absent : cycleBytes (s.spare 1) none = List.replicate 11 0 := rfl
    rw [absent, List.getD_replicate _ hn]

/-! ### PROBE (Table 10-6) -/

theorem LineState.code_eq (l : LineState) : l.code = match l with
    | .sync => 0 | .dirty => 1 | .stale => 2 | .copying => 3 := by
  cases l <;> rfl

/-- What PROBE does for a line index of a region with a line map. -/
def State.probe (s : State) (k : SlotNo) (c : Cycle) (line : BitVec 16) : State :=
  match c.lines[line.toNat]? with
  | some state => s.answerRead 2 (s.probeBytes k state line.toNat)
  | none => s.answer 2 .badarg []

theorem exec_probe_of_some (hup : s.linkUp) (hk : slot.toNat = k.val) (hg : s.region? k = some g) (hc : g.cycle = some c)
    (line : BitVec 16) : exec (.probe slot line) s = .next (s.probe k c line) := by
  have run : exec (.probe slot line) s = .next (s.recordCommand 2 slot (·.cycle.isSome) fun k g =>
    match g.cycle with
    | some c => s.probe k c line
    | none => s.answer 2 .badstate []) := rfl
  rw [run, State.recordCommand_of_ok hup hk hg (by simp [hc])]
  simp only [hc]

theorem State.slotOn_eq_some {j : Fin 4} {x : Copy} {line : Nat} (hj : s.slots[j] = .copying x) (hk : x.region = k)
    (hl : x.line = line) (unique : ∀ (j' : Fin 4) x', s.slots[j'] = .copying x' → x'.region = k → x'.line = line → j' = j) :
    s.slotOn k line = some (j, x) := by
  refine List.findSome?_finRange _ j (j, x) (by simp [hj, hk, hl]) fun i hi => ?_
  split
  · rename_i y hy
    refine if_neg fun h => hi.ne (unique i y hy h.1 h.2)
  · rfl
  · rfl

theorem State.slotOn_eq_none {line : Nat}
    (h : ∀ (j : Fin 4) x, s.slots[j] = .copying x → ¬ (x.region = k ∧ x.line = line)) : s.slotOn k line = none := by
  refine List.findSome?_eq_none_iff.2 fun j _ => ?_
  split
  · rename_i x hx
    exact if_neg (h j x hx)
  · rfl
  · rfl

/-- The number of a slot and of an attempt stand in two bits each of byte 1. -/
theorem probeSlotByte_some (j : Fin 4) {x : Copy} (ha : 1 ≤ x.attempt ∧ x.attempt ≤ 3) (spare : Byte) :
    (probeSlotByte (some (j, x)) spare).getLsbD 7 = true ∧
    (probeSlotByte (some (j, x)) spare).extractLsb' 0 2 = BitVec.ofNat 2 j.val ∧
    (probeSlotByte (some (j, x)) spare).getLsbD 2 = (x.phase == .write) ∧
    (probeSlotByte (some (j, x)) spare).extractLsb' 3 2 = BitVec.ofNat 2 x.attempt ∧
    (probeSlotByte (some (j, x)) spare).getLsbD 5 = x.demanded := by
  have item : ∀ i, (0xBF : Byte).getLsbD i = true → (probeSlotByte (some (j, x)) spare).getLsbD i =
      (bitAt true 7 ||| byte j.val ||| bitAt (x.phase == .write) 2 ||| (byte (x.attempt % 4) <<< 3) |||
        bitAt x.demanded 5).getLsbD i := fun i hi => getLsbD_withSpare _ _ _ hi
  have slotBits : ∀ n, 2 ≤ n → j.val.testBit n = false := fun n hn =>
    Nat.testBit_lt_two_pow (j.isLt.trans_le (Nat.pow_le_pow_right (n := 2) (by decide) hn))
  have attemptBits : ∀ n, 2 ≤ n → x.attempt.testBit n = false := fun n hn =>
    Nat.testBit_lt_two_pow (lt_of_lt_of_le (by omega : x.attempt < 2 ^ 2) (Nat.pow_le_pow_right (n := 2) (by decide) hn))
  have attempt : x.attempt % 4 = x.attempt := Nat.mod_eq_of_lt (by omega)
  refine ⟨?_, BitVec.eq_of_getLsbD_eq fun i hi => ?_, ?_, BitVec.eq_of_getLsbD_eq fun i hi => ?_, ?_⟩
  · rw [item 7 (by decide)]
    simp [getLsbD_bitAt, byte, BitVec.getLsbD_ofNat, slotBits, attemptBits, attempt, -BitVec.getLsbD_eq_getElem]
  · rw [BitVec.getLsbD_extractLsb', Nat.zero_add, item i (by interval_cases i <;> decide)]
    interval_cases i <;> simp [getLsbD_bitAt, byte, BitVec.getLsbD_ofNat, -BitVec.getLsbD_eq_getElem]
  · rw [item 2 (by decide)]
    simp [getLsbD_bitAt, byte, BitVec.getLsbD_ofNat, slotBits, -BitVec.getLsbD_eq_getElem]
  · rw [BitVec.getLsbD_extractLsb', item (3 + i) (by interval_cases i <;> decide)]
    interval_cases i <;> simp [getLsbD_bitAt, byte, BitVec.getLsbD_ofNat, slotBits, attempt, -BitVec.getLsbD_eq_getElem]
  · rw [item 5 (by decide)]
    simp [getLsbD_bitAt, byte, BitVec.getLsbD_ofNat, slotBits, attemptBits, attempt, -BitVec.getLsbD_eq_getElem]

theorem State.probeDemandByte_none {line : Nat} (h : ∀ e ∈ s.demand, ¬ (e.region = k ∧ e.line = line)) :
    s.probeDemandByte k line = 0 := by
  have absent : s.demand.find? (fun e => e.region == k && e.line == line) = none :=
    List.find?_eq_none.2 fun e he => by simpa using h e he
  rw [State.probeDemandByte, absent]

/-- Table 10-6: whose entry the demand list has. -/
def Requester.code : Requester → Byte
  | .pPath => 1
  | .replay => 2

theorem State.probeDemandByte_split {line : Nat} {older younger : List DemandEntry} {e : DemandEntry}
    (h : s.demand = older ++ e :: younger) (hk : e.region = k) (hl : e.line = line)
    (ho : ∀ e' ∈ older, ¬ (e'.region = k ∧ e'.line = line)) :
    s.probeDemandByte k line = e.requester.code := by
  have found : s.demand.find? (fun e => e.region == k && e.line == line) = some e := by
    rw [h]
    exact find?_of_split (fun e' he' => by simpa using ho e' he') (by simp [hk, hl])
  rw [State.probeDemandByte, found]
  obtain ⟨_, _, _ | _⟩ := e <;> rfl

/-- Settles O18. -/
theorem probeReportsTheLine : Obligations.ProbeReportsTheLine := by
  intro s slot k g c line hup hk hg hc
  refine ⟨fun l hl => ⟨s.probeBytes k l line.toNat, ?_, rfl, l.code_eq, fun j x hj hr hx h1 h3 unique => ?_, fun h => ?_,
    fun h => State.probeDemandByte_none h, fun older e younger h hr hx ho => State.probeDemandByte_split h hr hx ho⟩,
    fun hl => ?_⟩
  · rw [exec_probe_of_some hup hk hg hc, State.probe, hl]
    rfl
  · have held : (s.probeBytes k l line.toNat).getD 1 0 = probeSlotByte (s.slotOn k line.toNat) (s.spare 0) := rfl
    rw [held, State.slotOn_eq_some hj hr hx unique]
    exact probeSlotByte_some j ⟨h1, h3⟩ _
  · have held : (s.probeBytes k l line.toNat).getD 1 0 = probeSlotByte (s.slotOn k line.toNat) (s.spare 0) := rfl
    rw [held, State.slotOn_eq_none h]
    exact (getLsbD_withSpare _ _ _ (by decide)).trans (by decide)
  · rw [exec_probe_of_some hup hk hg hc, State.probe, List.getElem?_eq_none hl]
    rfl

end Sys2Proof.Machine
end

section
/-! PROOFS. READDEF carries the definition in the bytes of Table 10-4, and the frames of the link (Sections 2.2, 10.1, 10.8). -/

namespace Sys2Proof.Machine

variable {s : State} {k : SlotNo} {g : Region} {slot : Byte}

/-! ### READDEF -/

theorem exec_readdef_of_up (hup : s.linkUp) (hk : slot.toNat = k.val) : exec (.readdef slot) s = .next
    (s.onRecord 0 (fun _ => true) (fun _ g => s.answerRead 0 (readdefBytes g.defn s.spare)) k) := by
  have run : exec (.readdef slot) s = .next
    (s.recordCommand 0 slot (fun _ => true) fun _ g => s.answerRead 0 (readdefBytes g.defn s.spare)) := rfl
  rw [run, State.recordCommand, s.slotCommand_of_slot 0 slot k _ hup hk]
  rfl

/-- The seal group stands in the two lowest bits of byte 1. -/
theorem group_of_withSpare (b : Bool) (n : Fin 4) (spare : Byte) :
    (withSpare 0x83 (bitAt b 7 ||| byte n.val) spare).extractLsb' 0 2 = BitVec.ofNat 2 n.val := by
  refine BitVec.eq_of_getLsbD_eq fun i hi => ?_
  rw [BitVec.getLsbD_extractLsb', Nat.zero_add, getLsbD_withSpare _ _ _ (by interval_cases i <;> decide)]
  interval_cases i <;> simp [getLsbD_bitAt, byte, BitVec.getLsbD_ofNat, -BitVec.getLsbD_eq_getElem]

/-- Writer code and care mask stand in the six lowest bits of their bytes. -/
theorem tag_of_withSpare (v : BitVec 6) (spare : Byte) :
    (withSpare 0x3F (v.setWidth 8) spare).extractLsb' 0 6 = v := by
  refine BitVec.eq_of_getLsbD_eq fun i hi => ?_
  have low : i < 8 := by omega
  rw [BitVec.getLsbD_extractLsb', Nat.zero_add, getLsbD_withSpare _ _ _ (by interval_cases i <;> decide)]
  simp [hi, low, -BitVec.getLsbD_eq_getElem]

theorem readdef_flags (d : Definition) (spare : Nat → Byte) :
    (defineParams (readdefBytes d spare)).flags.getLsbD 0 = d.double.isSome ∧
    (defineParams (readdefBytes d spare)).flags.getLsbD 1 = d.double.isSome ∧
    (defineParams (readdefBytes d spare)).flags.getLsbD 2 = d.double.isSome ∧
    (defineParams (readdefBytes d spare)).flags.getLsbD 3 = d.rotation.isSome := by
  have flags : (defineParams (readdefBytes d spare)).flags =
    withSpare 0x0F (bitAt d.double.isSome 0 ||| bitAt d.double.isSome 1 ||| bitAt d.double.isSome 2 |||
      bitAt d.rotation.isSome 3) (spare 0) := rfl
  rw [flags]
  refine ⟨?_, ?_, ?_, ?_⟩ <;> rw [getLsbD_withSpare _ _ _ (by decide)] <;>
    simp [BitVec.getLsbD_or, getLsbD_bitAt, -BitVec.getLsbD_eq_getElem]

/-- Items of DOUBLE regions stand as 0 where the region is SINGLE. -/
theorem readdef_double (d : Definition) (spare : Nat → Byte) :
    (defineParams (readdefBytes d spare)).sourceGroup =
      withSpare 0x83 (bitAt (d.source == .b) 7 ||| byte ((d.double.map DoublePart.group).getD 0).val) (spare 1) ∧
    (defineParams (readdefBytes d spare)).bankB = BitVec.ofNat 32 ((d.double.map DoublePart.bankB).getD 0) := by
  obtain ⟨_ | x, window, size, bankA, source, code, care, rotation⟩ := d <;> exact ⟨rfl, be32_extract _⟩

theorem readdef_plain (d : Definition) (spare : Nat → Byte) :
    (defineParams (readdefBytes d spare)).code.extractLsb' 0 6 = d.code ∧
    (defineParams (readdefBytes d spare)).care.extractLsb' 0 6 = d.care ∧
    (defineParams (readdefBytes d spare)).window = BitVec.ofNat 32 d.window ∧
    (defineParams (readdefBytes d spare)).size = BitVec.ofNat 16 d.size ∧
    (defineParams (readdefBytes d spare)).bankA = BitVec.ofNat 32 d.bankA :=
  ⟨tag_of_withSpare _ _, tag_of_withSpare _ _, be32_extract _, be16_extract _, be32_extract _⟩

theorem readdef_rotation (d : Definition) (spare : Nat → Byte) (r : Rotation)
    (hr : r = d.rotation.getD { head := 0, body := 0, tail := 0, autoStep := 0 }) :
    (defineParams (readdefBytes d spare)).head = BitVec.ofNat 16 r.head ∧
    (defineParams (readdefBytes d spare)).body = BitVec.ofNat 16 r.body ∧
    (defineParams (readdefBytes d spare)).tail = BitVec.ofNat 16 r.tail ∧
    (defineParams (readdefBytes d spare)).autoStep = BitVec.ofNat 16 r.autoStep := by
  subst hr
  exact ⟨be16_extract _, be16_extract _, be16_extract _, be16_extract _⟩

theorem toNat_ofNat_toNat {w : Nat} (v : BitVec w) : (BitVec.ofNat w v.toNat).toNat = v.toNat := by
  rw [BitVec.ofNat_toNat, BitVec.setWidth_eq]

theorem readdef_source (d : Definition) (spare : Nat → Byte) :
    (defineParams (readdefBytes d spare)).sourceGroup.getLsbD 7 = (d.source == .b) := by
  rw [(readdef_double d spare).1, getLsbD_withSpare _ _ _ (by decide), BitVec.getLsbD_or]
  have clear : ∀ n : Fin 4, (byte n.val).getLsbD 7 = false := by decide
  rw [clear, getLsbD_bitAt]
  simp

theorem readdef_group (d : Definition) (spare : Nat → Byte) :
    (defineParams (readdefBytes d spare)).sourceGroup.extractLsb' 0 2 =
      BitVec.ofNat 2 ((d.double.map DoublePart.group).getD 0).val := by
  rw [(readdef_double d spare).1, group_of_withSpare]

/-- A definition that DEFINE can write is the one READDEF's bytes hold. -/
theorem holds_readdefBytes {d : Definition} {p : DefineParams} (h : d.holds p) (spare : Nat → Byte) :
    d.holds (defineParams (readdefBytes d spare)) := by
  obtain ⟨window, size, bankA, source, code, care, double, rotation⟩ := h
  obtain ⟨code', care', window', size', bankA'⟩ := readdef_plain d spare
  obtain ⟨flag0, -, -, flag3⟩ := readdef_flags d spare
  refine ⟨?_, ?_, ?_, ?_, code'.symm, care'.symm, ?_, ?_⟩
  · rw [window', window, toNat_ofNat_toNat]
  · rw [size', size, toNat_ofNat_toNat]
  · rw [bankA', bankA, toNat_ofNat_toNat]
  · rw [readdef_source]
    cases d.source <;> rfl
  · rw [flag0, readdef_group, (readdef_double d spare).2, double]
    split
    · have two : ∀ n : Fin 4, (BitVec.ofNat 2 n.val).toFin = n := by decide
      simp only [Option.isSome_some, if_true, Option.map_some, Option.getD_some, two, toNat_ofNat_toNat]
    · rfl
  · obtain ⟨head, body, tail, autoStep⟩ := readdef_rotation d spare _ rfl
    rw [flag3, head, body, tail, autoStep, rotation]
    split
    · simp
    · rfl

/-- Settles O10. -/
theorem readdefReturnsTheDefinition : Obligations.ReaddefReturnsTheDefinition := by
  intro s slot k hup hk
  rw [exec_readdef_of_up hup hk]
  refine ⟨fun h => by rw [State.onRecord_of_not 0 _ _ k (by simp [h]), State.answer_eq], fun g hg p _ hp => ?_⟩
  obtain ⟨-, flag1, flag2, -⟩ := readdef_flags g.defn s.spare
  have reads : s.onRecord 0 (fun _ => true) (fun _ g => s.answerRead 0 (readdefBytes g.defn s.spare)) k =
      s.answerRead 0 (readdefBytes g.defn s.spare) := by
    simp only [State.onRecord, Option.mem_def.1 hg, if_true]
  refine ⟨readdefBytes g.defn s.spare, by rw [reads, State.answerRead_eq], rfl, holds_readdefBytes hp s.spare, flag1, flag2,
    fun single => ?_, fun flat => ?_⟩
  · rw [readdef_group, (readdef_double g.defn s.spare).2, single]
    exact ⟨rfl, rfl⟩
  · have := readdef_rotation g.defn s.spare _ rfl
    rw [flat] at this
    exact this

/-! ### Frames: bytes and bits -/

theorem getLsbD_lowest (b : Bool) (n : Nat) : (if b = true then 1#8 else 0#8).getLsbD n = (b && decide (n = 0)) := by
  cases b <;> simp

theorem byteOfBits_bitsOfByte (b : Byte) : byteOfBits (bitsOfByte b) = b := by
  refine BitVec.eq_of_getLsbD_eq fun i hi => ?_
  simp only [byteOfBits, bitsOfByte, List.range, List.range.loop, List.map_cons, List.map_nil, List.foldl_cons, List.foldl_nil]
  interval_cases i <;> simp [getLsbD_lowest, -BitVec.getLsbD_eq_getElem]

theorem bitsOfByte_length (b : Byte) : (bitsOfByte b).length = 8 := by
  rw [bitsOfByte, List.length_map, List.length_range]

theorem flatMap_bitsOfByte_length (bytes : List Byte) : (bytes.flatMap bitsOfByte).length = 8 * bytes.length := by
  induction bytes with
  | nil => rfl
  | cons b bs ih =>
    rw [List.flatMap_cons, List.length_append, ih, bitsOfByte_length, List.length_cons]
    omega

theorem bytesOfBits_flatMap (bytes : List Byte) : bytesOfBits bytes.length (bytes.flatMap bitsOfByte) = bytes := by
  induction bytes with
  | nil => rfl
  | cons b bs ih =>
    have long : ¬ (bitsOfByte b ++ bs.flatMap bitsOfByte).length < 8 := by
      rw [List.length_append, bitsOfByte_length]
      omega
    rw [List.flatMap_cons, List.length_cons, bytesOfBits, if_neg long, List.take_left' (bitsOfByte_length b),
      List.drop_left' (bitsOfByte_length b), byteOfBits_bitsOfByte, ih]

/-- What the bytes of a frame spell is read from their bits. -/
theorem decodeFrame_of_decodeBytes {bytes : List Byte} {i : Instr} (h : decodeBytes bytes = some i) :
    decodeFrame (bytes.flatMap bitsOfByte) = some i := by
  match bytes, h with
  | code :: slot :: rest, h =>
    have enough : (paramCount code).getD 0 ≤ rest.length := by
      by_contra hnot
      rw [decodeBytes, if_pos (not_le.1 hnot)] at h
      cases h
    have len := flatMap_bitsOfByte_length (code :: slot :: rest)
    have code' : byteOfBits (((code :: slot :: rest).flatMap bitsOfByte).take 8) = code := by
      rw [List.flatMap_cons, List.take_left' (bitsOfByte_length code), byteOfBits_bitsOfByte]
    have whole : truncated ((code :: slot :: rest).flatMap bitsOfByte) = false := by
      rw [truncated, code', len, takenAfter]
      simp only [List.length_cons, Bool.and_eq_false_iff, Bool.or_eq_false_iff, decide_eq_false_iff_not]
      exact .inr ⟨by omega, by omega⟩
    have some : (code :: slot :: rest).flatMap bitsOfByte ≠ [] := by
      rw [← List.length_pos_iff, len, List.length_cons]
      omega
    rw [decodeFrame, if_neg some, whole, len, Nat.mul_div_cancel_left _ (by decide), bytesOfBits_flatMap]
    exact h

theorem commandOf_of_unknown {code : Byte} (h : paramCount code = none) (slot : Byte) (p : List Byte) :
    commandOf code slot p = .unknownCommand code slot := by
  simp only [paramCount] at h
  split at h <;> cases h
  simp only [commandOf]

theorem defineParams_defineBytes (p : DefineParams) (rest : List Byte) : defineParams (defineBytes p ++ rest) = p := by
  obtain ⟨flags, sourceGroup, code, care, window, size, bankA, bankB, head, body, tail, autoStep⟩ := p
  simp [defineParams, defineBytes, bytes32, bytes16]

theorem defineBytes_length (p : DefineParams) : (defineBytes p).length = 26 := rfl

theorem decodeBytes_of_encodeFrame {i : Instr} {bytes : List Byte} (wf : i.wellFormed = true)
    (h : encodeFrame i = some bytes) (rest : List Byte) : decodeBytes (bytes ++ rest) = some i := by
  cases i with
  | unknownCommand code slot =>
    cases h
    have unknown : paramCount code = none := by simpa [Instr.wellFormed] using wf
    simp [decodeBytes, unknown, commandOf_of_unknown unknown]
  | define slot p => 
    cases h
    have long : ¬ (defineBytes p ++ rest).length < 26 := by
      rw [List.length_append, defineBytes_length]
      omega
    simp [decodeBytes, paramCount, commandOf, defineParams_defineBytes, -List.length_append, long]
  | _ => cases h <;> simp [decodeBytes, paramCount, commandOf, bytes16]

/-! ### Replies (R169, R170) -/

theorem Result.code_eq (r : Result) : r.code = match r with
    | .ack => 1 | .busy => 2 | .badarg => 3 | .badstate => 4 | .overlap => 5 | .nospace => 6 | .badcmd => 7 := by
  cases r <;> rfl

theorem State.reply_of_outer {t : State} (h : t.outer = s.outer) : t.reply = s.reply :=
  congrArg Frame.reply ((State.outer_eq_iff s t).1 h).1

theorem State.holdExpiry_outer (s : State) : s.holdExpiry.outer = s.outer := by
  simp only [State.holdExpiry]
  split
  · rfl
  · split
    · split
      · rw [State.modRegion_outer, State.modHeld_outer]
      · rw [State.modHeld_outer]
    · rfl

theorem State.upstreamError_outer (s : State) (x : Tx) : (s.upstreamError x).outer = s.outer := by
  simp only [State.upstreamError]
  split
  · exact s.reportError_outer _ _
  · exact s.setDevCond_outer _

theorem State.handOver_outer (s : State) (o : Owner) (status : MStatus) (data : List Word) :
    (s.handOver o status data).outer = s.outer := by
  cases status with
  | okay => exact s.handOver_okay_outer o data
  | error =>
    cases o with
    | port port place =>
      simp only [State.handOver, State.portResponse]
      split
      · rfl
      · rw [State.upstreamError_outer, s.setTracker_outer port]
    | engine e =>
      cases e with
      | replay =>
        simp only [State.handOver, State.replayResponse]
        split
        · rfl
        · rfl
        · split
          · exact State.reportError_outer _ _ _
          · rfl
      | slot j =>
        simp only [State.handOver, State.slotResponse, State.copyError]
        split
        · rfl
        · rfl
        · split
          · rfl
          · split
            · exact s.reportError_outer _ _
            · exact s.reportError_outer _ _
            · exact s.reportError_outer _ _

theorem State.replyAgrees_of_reply {t : State} (hs : s.replyAgrees) (h : t.reply = s.reply) : t.replyAgrees := by
  rw [State.replyAgrees, h]
  exact hs

theorem State.replyAgrees_of_ack {t : State} {n : Nat} {d : List Byte}
    (h : t.reply = some { lead := n, result := .ack, data := d }) : t.replyAgrees := fun r hr hne => by
  rw [Option.mem_def, h] at hr
  cases hr
  exact absurd rfl hne

theorem State.settle_reply (s : State) : s.settle.reply = s.reply := State.reply_of_outer s.settle_outer

theorem State.Does.replyAgrees {s t : State} {i : Instr} (h : s.Does i t) (hs : s.replyAgrees) : t.replyAgrees := by
  have kept : ∀ {u : State}, u.outer = s.outer → u.replyAgrees := fun hu =>
    State.replyAgrees_of_reply hs (State.reply_of_outer hu)
  cases h with
  | idle => exact hs
  | link _ reply free conds data => exact data
  | answered port req => exact kept (s.accept_outer port req _)
  | accepted port req => exact kept ((State.settle_outer _).trans (s.accept_outer port req _))
  | taken port x rest =>
    exact kept ((State.settle_outer _).trans ((State.leaveCount_outer _ x).trans (s.setTracker_outer port rest)))
  | holdRelease => exact kept s.holdRelease_outer
  | advance =>
    exact State.replyAgrees_of_reply (s := State.ageHold { s with timeBase := s.timeBase + 1 }) hs (State.reply_of_outer (State.holdExpiry_outer _))
  | holdExpiry => exact kept s.holdExpiry_outer
  | grant => exact kept s.grant_outer
  | memoryTakes => exact kept (State.settle_outer _)
  | mResponse status data o rest => 
    exact kept ((State.settle_outer _).trans (State.handOver_outer _ o.owner status data))
  | copyTake => exact kept s.copyTake_outer
  | replaySelect => exact kept s.replaySelect_outer
  | replayIssue => exact kept s.replayIssue_outer
  | sealedEntry k => exact kept (s.modRegion_outer k _)
  | drainEnd k => exact kept (s.modRegion_outer k _)
  | returnToDefined k => exact kept (s.modRegion_outer k _)
  | sealLine line => exact kept (s.mapRegions_outer _)
  | epoch source => exact kept ((State.settle_outer _).trans (s.mapRegions_outer _))
  | softResetEnd => exact kept s.softResetEnd_outer
  | hardReset => exact fun r hr => nomatch hr
  | activate => exact State.replyAgrees_of_ack (State.settle_reply _)
  | retire => exact State.replyAgrees_of_ack (State.settle_reply _)
  | revive => exact State.replyAgrees_of_ack (State.settle_reply _)
  | softreset => exact State.replyAgrees_of_ack (State.settle_reply _)
  | _ => exact State.replyAgrees_of_ack rfl

/-- Settles O23. -/
theorem framesAreReadBack : Obligations.FramesAreReadBack := by
  refine ⟨fun i bytes wf h => ⟨decodeBytes_of_encodeFrame wf h, decodeFrame_of_decodeBytes ?_⟩, fun s r hr => ?_,
    fun s n h => by rw [State.mdo, h], fun s t hs hstep => step_keeps (fun _ _ h => h) (fun _ _ _ h d => d.replyAgrees h) hs hstep⟩
  · simpa using decodeBytes_of_encodeFrame wf h []
  · have mdo : ∀ n, s.mdo n = r.mdo n := fun n => by rw [State.mdo, hr]
    refine ⟨fun n hn => ?_, ?_, fun n b hb => ?_, fun n hn => ?_⟩ <;> rw [mdo, Reply.mdo]
    · exact if_pos hn
    · rw [if_neg (lt_irrefl _), if_pos rfl]
      exact r.result.code_eq
    · have past : r.lead + 1 + n - r.lead - 1 = n := by omega
      rw [if_neg (by omega), if_neg (by omega), past, List.getD_eq_getElem?_getD, hb, Option.getD_some]
    · rw [if_neg (by omega), if_neg (by omega), List.getD_eq_default _ _ (by omega)]

end Sys2Proof.Machine
end

section
/-! PROOFS. Copy slots and COPYING lines, region by region: what a slot holds of a region against the cycle items of that region
(Sections 3.6, 6.2). Settles O59. -/

namespace Sys2Proof.Machine

variable {s t : State} {i : Instr} {k : SlotNo} {g g' : Region} {c c' : Cycle} {slots slots' : Vector CopySlot 4} {n : Nat}

/-! ### The cycle items of a slot's region -/

theorem State.cycle?_eq (s : State) (k : SlotNo) : s.cycle? k = (s.region? k).bind Region.cycle := rfl

theorem State.cycle?_of_some (hg : s.region? k = some g) : s.cycle? k = g.cycle := by
  rw [State.cycle?_eq, hg, Option.bind_some]

theorem State.cycle?_eq_some : s.cycle? k = some c ↔ ∃ g, s.region? k = some g ∧ g.cycle = some c := by
  rw [State.cycle?_eq, Option.bind_eq_some_iff]

theorem State.forall_cycle? {P : SlotNo → Cycle → Prop} :
    (∀ k, ∀ g ∈ s.region? k, ∀ c ∈ g.cycle, P k c) ↔ ∀ k, ∀ c ∈ s.cycle? k, P k c := by
  refine forall_congr' fun k => ⟨fun h c hc => ?_, fun h g hg c hc => h c (State.cycle?_eq_some.2 ⟨g, hg, hc⟩)⟩
  obtain ⟨g, hg, hgc⟩ := State.cycle?_eq_some.1 hc
  exact h g hg c hgc

theorem State.cycle?_of_table (h : t.table = s.table) (k : SlotNo) : t.cycle? k = s.cycle? k := by
  rw [State.cycle?_eq, State.cycle?_eq, State.region?, State.region?, h]

theorem State.region?_of_set (h : t.table = s.table.set k (some g)) (j : SlotNo) :
    t.region? j = if j = k then some g else s.region? j := by
  have same : t.table = (s.putRegion k (some g)).table := h
  rw [← State.region?_putRegion s k j (some g), State.region?, same]
  rfl

theorem State.cycle?_of_set (h : t.table = s.table.set k (some g)) (j : SlotNo) :
    t.cycle? j = if j = k then g.cycle else s.cycle? j := by
  rw [State.cycle?_eq, State.region?_of_set h]
  split <;> rfl

theorem State.cycle?_mapRegions (s : State) (f : SlotNo → Region → Region) (k : SlotNo) :
    (s.mapRegions f).cycle? k = (s.region? k).bind fun g => (f k g).cycle := by
  rw [State.cycle?_eq, State.region?_mapRegions, Option.bind_map]
  rfl

theorem State.cycle?_modRegion (s : State) (k j : SlotNo) (f : Region → Region) :
    (s.modRegion k f).cycle? j = if j = k then (s.region? k).bind fun g => (f g).cycle else s.cycle? j := by
  rw [State.cycle?_eq, State.region?_modRegion]
  split
  · rw [Option.bind_map]
    rfl
  · rfl

theorem State.cycle?_modCycle (s : State) (k j : SlotNo) (f : Cycle → Cycle) :
    (s.modCycle k f).cycle? j = if j = k then (s.cycle? k).map f else s.cycle? j := by
  rw [State.modCycle, State.cycle?_modRegion]
  split
  · rw [State.cycle?_eq, Option.map_bind]
    rfl
  · rfl

/-! ### What a copy slot holds of a region -/

/-- The line a COPYING slot holds of a region, with the banks it goes from and to. -/
def CopySlot.on (x : CopySlot) (k : SlotNo) : Option (Nat × Bank × Bank) :=
  match x with
  | .copying y => if y.region = k then some (y.line, y.source, y.target) else none
  | .free => none
  | .finishing _ _ => none

theorem CopySlot.on_eq_some {x : CopySlot} {l : Nat} {a b : Bank} :
    x.on k = some (l, a, b) ↔ ∃ y, x = .copying y ∧ y.region = k ∧ y.line = l ∧ y.source = a ∧ y.target = b := by
  cases x with
  | free => simp [CopySlot.on]
  | finishing => simp [CopySlot.on]
  | copying y =>
    by_cases h : y.region = k
    · simp [CopySlot.on, h]
    · simp [CopySlot.on, h]

theorem CopySlot.on_copying {y : Copy} (h : y.region = k) : (CopySlot.copying y).on k = some (y.line, y.source, y.target) :=
  if_pos h

theorem CopySlot.on_eq_none_iff {x : CopySlot} : x.on k = none ↔ ∀ y, x = .copying y → y.region ≠ k := by
  cases x with
  | free => simp [CopySlot.on]
  | finishing => simp [CopySlot.on]
  | copying y => simp [CopySlot.on]

/-- The COPYING lines of a region's cycle items and the slots agree: each line a slot holds is COPYING, in a region that is not
HALTED, from front to draft; each COPYING line is held, by one slot; a SEALED region has stale count 0. -/
structure CopiesOn (slots : Vector CopySlot 4) (k : SlotNo) (x : Option Cycle) : Prop where
  taken : ∀ (j : Fin 4) l a b, (slots[j]).on k = some (l, a, b) →
    ∃ c, x = some c ∧ c.lines[l]? = some .copying ∧ c.pub ≠ .halted ∧ a = c.front ∧ b = c.front.other
  covered : ∀ c, x = some c → ∀ l, c.lines[l]? = some .copying → ∃ (j : Fin 4) (a b : Bank), (slots[j]).on k = some (l, a, b)
  once : ∀ (j j' : Fin 4) l a b a' b', (slots[j]).on k = some (l, a, b) → (slots[j']).on k = some (l, a', b') → j = j'
  closed : ∀ c, x = some c → c.pub = .isSealed → c.stale = 0

theorem State.copiesAgree_iff (s : State) : s.copiesAgree ↔ ∀ k, CopiesOn s.slots k (s.cycle? k) := by
  constructor
  · rintro ⟨taken, once, covered, closed⟩ k
    refine ⟨fun j l a b h => ?_, fun c hc l hl => ?_, fun j j' l a b a' b' h h' => ?_, fun c hc => ?_⟩
    · obtain ⟨y, hy, rfl, rfl, rfl, rfl⟩ := CopySlot.on_eq_some.1 h
      obtain ⟨g, hg, c, hc, hrest⟩ := taken j y hy
      exact ⟨c, State.cycle?_eq_some.2 ⟨g, hg, hc⟩, hrest⟩
    · obtain ⟨g, hg, hgc⟩ := State.cycle?_eq_some.1 hc
      obtain ⟨j, y, hy, rfl, rfl⟩ := covered k g hg c hgc l hl
      exact ⟨j, y.source, y.target, CopySlot.on_eq_some.2 ⟨y, hy, rfl, rfl, rfl, rfl⟩⟩
    · obtain ⟨y, hy, hk, hl, -⟩ := CopySlot.on_eq_some.1 h
      obtain ⟨y', hy', hk', hl', -⟩ := CopySlot.on_eq_some.1 h'
      exact once j j' y y' hy hy' (hk.trans hk'.symm) (hl.trans hl'.symm)
    · obtain ⟨g, hg, hgc⟩ := State.cycle?_eq_some.1 hc
      exact closed k g hg c hgc
  · intro h
    refine ⟨fun j y hy => ?_, fun j j' y y' hy hy' hk hl => ?_, fun k g hg c hc l hl => ?_, fun k g hg c hc => ?_⟩
    · obtain ⟨c, hc, hrest⟩ := (h y.region).taken j y.line _ _ (CopySlot.on_eq_some.2 ⟨y, hy, rfl, rfl, rfl, rfl⟩)
      obtain ⟨g, hg, hgc⟩ := State.cycle?_eq_some.1 hc
      exact ⟨g, hg, c, hgc, hrest⟩
    · exact (h y.region).once j j' y.line _ _ _ _ (CopySlot.on_eq_some.2 ⟨y, hy, rfl, rfl, rfl, rfl⟩)
        (CopySlot.on_eq_some.2 ⟨y', hy', hk.symm, hl.symm, rfl, rfl⟩)
    · obtain ⟨j, a, b, hj⟩ := (h k).covered c (State.cycle?_eq_some.2 ⟨g, hg, hc⟩) l hl
      obtain ⟨y, hy, hk, hl, -⟩ := CopySlot.on_eq_some.1 hj
      exact ⟨j, y, hy, hk, hl⟩
    · exact (h k).closed c (State.cycle?_eq_some.2 ⟨g, hg, hc⟩)

/-! ### How the agreement is kept -/

theorem CopiesOn.congr {x : Option Cycle} (h : CopiesOn slots k x) (hs : ∀ j : Fin 4, (slots'[j]).on k = (slots[j]).on k) :
    CopiesOn slots' k x := by
  obtain ⟨taken, covered, once, closed⟩ := h
  refine ⟨fun j => ?_, fun c hc l hl => ?_, fun j j' => ?_, closed⟩
  · rw [hs]
    exact taken j
  · obtain ⟨j, a, b, hj⟩ := covered c hc l hl
    exact ⟨j, a, b, (hs j).trans hj⟩
  · rw [hs, hs]
    exact once j j'

/-- A change of the cycle items that leaves the COPYING lines and the banks, and does not halt the region. -/
theorem CopiesOn.cycle (h : CopiesOn slots k (some c)) (hl : ∀ l : Nat, c'.lines[l]? = some .copying ↔ c.lines[l]? = some .copying)
    (hp : c.pub ≠ .halted → c'.pub ≠ .halted) (hf : c'.front = c.front) (hs : c'.pub = .isSealed → c'.stale = 0) :
    CopiesOn slots k (some c') := by
  refine ⟨fun j l a b hj => ?_, fun d hd l hline => ?_, h.once, fun d hd => ?_⟩
  · obtain ⟨d, hd, hline, hpub, ha, hb⟩ := h.taken j l a b hj
    cases hd
    exact ⟨c', rfl, (hl l).2 hline, hp hpub, hf ▸ ha, hf ▸ hb⟩
  · cases hd
    exact h.covered c rfl l ((hl l).1 hline)
  · cases hd
    exact hs

/-- No slot holds a line of the region, and none of its lines is COPYING. -/
theorem CopiesOn.of_none {x : Option Cycle} (hs : ∀ j : Fin 4, (slots[j]).on k = none)
    (hc : ∀ c, x = some c → (∀ l : Nat, c.lines[l]? ≠ some .copying) ∧ (c.pub = .isSealed → c.stale = 0)) : CopiesOn slots k x := by
  refine ⟨fun j l a b h => ?_, fun c h l hl => absurd hl ((hc c h).1 l), fun j j' l a b a' b' h => ?_, fun c h => (hc c h).2⟩
  · rw [hs] at h
    cases h
  · rw [hs] at h
    cases h

/-- A region without cycle items has no line in a slot. -/
theorem CopiesOn.on_none {x : Option Cycle} (h : CopiesOn slots k x) (hx : ∀ c, x = some c → c.pub = .halted) (j : Fin 4) :
    (slots[j]).on k = none := by
  match hj : (slots[j]).on k with
  | none => rfl
  | some (l, a, b) =>
    obtain ⟨c, hc, -, hpub, -⟩ := h.taken j l a b hj
    exact absurd (hx c hc) hpub

theorem CopiesOn.no_copying {x : Option Cycle} (h : CopiesOn slots k x) (hs : ∀ j : Fin 4, (slots[j]).on k = none) (hc : x = some c)
    (l : Nat) : c.lines[l]? ≠ some .copying := fun hl => by
  obtain ⟨j, a, b, hj⟩ := h.covered c hc l hl
  rw [hs j] at hj
  cases hj

/-- A FREE slot takes a line. -/
theorem CopiesOn.take (h : CopiesOn slots k (some c)) {j : Fin 4} {y : Copy} (free : slots[j] = .free) (region : y.region = k)
    (pub : c.pub = .opened ∨ c.pub = .sealWait) (stale : c.lines[y.line]? = some .stale) (source : y.source = c.front)
    (target : y.target = c.front.other) :
    CopiesOn (slots.set j (.copying y)) k (some { c with lines := c.lines.set y.line .copying }) := by
  have bound : y.line < c.lines.length := (List.getElem?_eq_some_iff.1 stale).1
  have lines : ∀ l : Nat, (c.lines.set y.line .copying)[l]? = some .copying ↔ l = y.line ∨ c.lines[l]? = some .copying := by
    intro l
    rw [List.getElem?_set]
    by_cases hl : y.line = l
    · simp [← hl, bound]
    · simp [hl, Ne.symm hl]
  have slot : ∀ j' : Fin 4, ((slots.set j (.copying y))[j']).on k =
      if j' = j then some (y.line, y.source, y.target) else (slots[j']).on k := by
    intro j'
    by_cases hj : j' = j
    · subst hj
      simp [CopySlot.on_copying region]
    · have : j.val ≠ j'.val := fun h => hj (Fin.ext h.symm)
      simp [hj, this]
  have before : ∀ (j' : Fin 4) a b, (slots[j']).on k ≠ some (y.line, a, b) := fun j' a b hj => by
    obtain ⟨d, hd, hline, -⟩ := h.taken j' _ a b hj
    cases hd
    rw [stale] at hline
    cases hline
  refine ⟨fun j' l a b hj => ?_, fun d hd l hline => ?_, fun j₁ j₂ l a b a' b' h₁ h₂ => ?_, fun d hd hseal => ?_⟩
  · rw [slot] at hj
    refine ⟨_, rfl, ?_⟩
    split at hj
    · cases hj
      exact ⟨(lines _).2 (.inl rfl), by rcases pub with h | h <;> simp [h], source, target⟩
    · obtain ⟨d, hd, hline, hrest⟩ := h.taken j' l a b hj
      cases hd
      exact ⟨(lines l).2 (.inr hline), hrest⟩
  · cases hd
    rcases (lines l).1 hline with rfl | hl
    · exact ⟨j, y.source, y.target, by rw [slot, if_pos rfl]⟩
    · obtain ⟨j', a, b, hj⟩ := h.covered c rfl l hl
      have other : j' ≠ j := fun e => by
        subst e
        rw [free] at hj
        cases hj
      exact ⟨j', a, b, by rw [slot, if_neg other, hj]⟩
  · rw [slot] at h₁ h₂
    split at h₁ <;> split at h₂
    · simp [*]
    · cases h₁
      exact absurd h₂ (before j₂ a' b')
    · cases h₂
      exact absurd h₁ (before j₁ a b)
    · exact h.once j₁ j₂ l a b a' b' h₁ h₂
  · cases hd
    rcases pub with h | h <;> rw [h] at hseal <;> cases hseal

/-- A slot gives up its line, which is COPYING no longer. -/
theorem CopiesOn.drop (h : CopiesOn slots k (some c)) {j : Fin 4} {y : Copy} (holds : slots[j] = .copying y) (region : y.region = k)
    {x : CopySlot} (empty : x.on k = none) {l : LineState} (other : l ≠ .copying) (hl : c'.lines = c.lines.set y.line l)
    (hp : c'.pub = c.pub) (hf : c'.front = c.front) (hs : c'.pub = .isSealed → c'.stale = 0) :
    CopiesOn (slots.set j x) k (some c') := by
  have holding : (slots[j]).on k = some (y.line, y.source, y.target) := by rw [holds, CopySlot.on_copying region]
  have lines : ∀ i : Nat, c'.lines[i]? = some .copying ↔ i ≠ y.line ∧ c.lines[i]? = some .copying := by
    intro i
    rw [hl, List.getElem?_set]
    by_cases hi : y.line = i
    · subst hi
      by_cases hb : y.line < c.lines.length
      · simp [hb, other]
      · simp [hb]
    · simp [hi, Ne.symm hi]
  have slot : ∀ j' : Fin 4, ((slots.set j x)[j']).on k = if j' = j then none else (slots[j']).on k := by
    intro j'
    by_cases hj : j' = j
    · subst hj
      simp [empty]
    · have : j.val ≠ j'.val := fun h => hj (Fin.ext h.symm)
      simp [hj, this]
  refine ⟨fun j' i a b hj => ?_, fun d hd i hline => ?_, fun j₁ j₂ i a b a' b' h₁ h₂ => ?_, fun d hd => ?_⟩
  · rw [slot] at hj
    split at hj
    · cases hj
    · rename_i hne
      obtain ⟨d, hd, hline, hpub, ha, hb⟩ := h.taken j' i a b hj
      cases hd
      have apart : i ≠ y.line := fun e => hne (h.once j' j i a b _ _ hj (e ▸ holding))
      exact ⟨c', rfl, (lines i).2 ⟨apart, hline⟩, hp ▸ hpub, hf ▸ ha, hf ▸ hb⟩
  · cases hd
    obtain ⟨hi, hline⟩ := (lines i).1 hline
    obtain ⟨j', a, b, hj⟩ := h.covered c rfl i hline
    have other : j' ≠ j := fun e => by
      subst e
      rw [holding] at hj
      cases hj
      exact hi rfl
    exact ⟨j', a, b, by rw [slot, if_neg other, hj]⟩
  · rw [slot] at h₁ h₂
    split at h₁
    · cases h₁
    · split at h₂
      · cases h₂
      · exact h.once j₁ j₂ i a b a' b' h₁ h₂
  · cases hd
    exact hs

/-! ### Changes of the cycle items that leave the copies alone -/

theorem Cycle.line_eq_copying {n : Nat} : c.line n = .copying ↔ c.lines[n]? = some .copying := by
  rw [Cycle.line, List.getD_eq_getElem?_getD]
  cases c.lines[n]? <;> simp

theorem Cycle.setLine_copying {new : LineState} (hold : c.line n ≠ .copying) (hnew : new ≠ .copying) (l : Nat) :
    (c.setLine n new).lines[l]? = some .copying ↔ c.lines[l]? = some .copying := by
  rw [Cycle.setLine_lines, List.getElem?_set]
  by_cases h : n = l
  · subst h
    have not : c.lines[n]? ≠ some .copying := fun h => hold (Cycle.line_eq_copying.2 h)
    by_cases hb : n < c.lines.length
    · have other : c.lines[n] ≠ .copying := fun e => not (by simp [hb, e])
      simp [hb, hnew, other]
    · simp [hb]
  · simp [h]

theorem Cycle.setLine_stale_zero {new : LineState} (hnew : new.staleUnit = 0) (h : c.stale = 0) : (c.setLine n new).stale = 0 := by
  cases hl : c.lines[n]? with
  | none => rwa [c.setLine_of_none n new hl]
  | some old =>
    rw [c.setLine_of_some n new old hl]
    simp [hnew, h]

theorem CopiesOn.dirtied (h : CopiesOn slots k (some c)) (hl : c.line n ≠ .copying) :
    CopiesOn slots k (some (c.setLine n .dirty)) := by
  obtain ⟨hpub, -, -, hfront, -⟩ := c.setLine_keeps n .dirty
  refine h.cycle (Cycle.setLine_copying hl (by decide)) (fun hp => hpub ▸ hp) hfront fun hs => ?_
  exact Cycle.setLine_stale_zero rfl (h.closed c rfl (hpub ▸ hs))

theorem CopiesOn.counts (h : CopiesOn slots k (some c)) (a b w : Nat) :
    CopiesOn slots k (some { c with readersA := a, readersB := b, writers := w }) :=
  h.cycle (fun _ => .rfl) id rfl (h.closed c rfl)

theorem CopiesOn.pubMoved (h : CopiesOn slots k (some c)) {pub : PubState} (pending : Bool) (hp : c.pub ≠ .halted → pub ≠ .halted)
    (hs : pub = .isSealed → c.stale = 0) : CopiesOn slots k (some { c with pub := pub, sealPending := pending }) :=
  h.cycle (fun _ => .rfl) hp rfl hs

theorem Cycle.stale_of_readyToSeal {queue : List QRecord} (h : c.readyToSeal queue k = true) : c.stale = 0 := by
  simp only [Cycle.readyToSeal, Bool.and_eq_true, beq_iff_eq] at h
  exact h.1.1

/-- A seal makes a region SEALED only when it is ready (R72). -/
theorem Cycle.takeSeal_sealed {queue : List QRecord} (h : (c.takeSeal queue k).pub = .isSealed) :
    c.pub = .isSealed ∨ c.readyToSeal queue k = true := by
  simp only [Cycle.takeSeal] at h
  split at h
  · simp only at h
    split at h
    · exact .inr ‹_›
    · cases h
  · rename_i hp
    rw [hp] at h
    cases h
  all_goals exact .inl h

theorem Cycle.endDrain_sealed {queue : List QRecord} (h : (c.endDrain queue k).pub = .isSealed) :
    c.readyToSeal queue k = true := by
  simp only [Cycle.endDrain] at h
  split at h
  · rcases Cycle.takeSeal_sealed h with h | h
    · cases h
    · exact h
  · cases h

theorem CopiesOn.sealTaken (h : CopiesOn slots k (some c)) (queue : List QRecord) (k' : SlotNo) :
    CopiesOn slots k (some (c.takeSeal queue k')) := by
  obtain ⟨pub, pending, e, moves⟩ := c.takeSeal_keeps queue k'
  have sealed : pub = .isSealed → c.stale = 0 := fun hs => by
    have hs' : (c.takeSeal queue k').pub = .isSealed := by rw [e]; exact hs
    exact (Cycle.takeSeal_sealed hs').elim (h.closed c rfl) Cycle.stale_of_readyToSeal
  rw [e]
  exact h.pubMoved pending (fun hp hh => hp (moves.halts.1 hh)) sealed

theorem CopiesOn.drainEnded (h : CopiesOn slots k g.cycle) (queue : List QRecord) (k' : SlotNo) :
    CopiesOn slots k (g.drainEnd queue k').cycle := by
  cases hc : g.cycle with
  | none => rwa [(Region.controllers_of_not (.inr hc) queue k').2]
  | some c =>
    rw [hc] at h
    obtain ⟨c', hc'⟩ : ∃ c', (g.drainEnd queue k').cycle = some c' := by
      obtain ⟨f, e⟩ := g.drainEnd_eq queue k'
      exact ⟨f c, by rw [e, Region.modCycle_cycle, hc, Option.map_some]⟩
    obtain ⟨c₀, h₀, ⟨rfl, -⟩ | ⟨-, hp, -, rfl⟩⟩ := Region.drainEnd_cycle hc'
    · rwa [hc', ← h₀, hc]
    · cases hc.symm.trans h₀
      obtain ⟨pub, pending, e, moves⟩ := c.endDrain_keeps queue k' hp
      have sealed : pub = .isSealed → c.stale = 0 := fun hs =>
        Cycle.stale_of_readyToSeal (queue := queue) (k := k') (Cycle.endDrain_sealed (by rw [e]; exact hs))
      rw [hc', e]
      exact h.pubMoved pending (fun hp hh => hp (moves.halts.1 hh)) sealed

theorem CopiesOn.sealEntered (h : CopiesOn slots k g.cycle) (queue : List QRecord) (k' : SlotNo) :
    CopiesOn slots k (g.sealedEntry queue k').cycle := by
  cases hc : g.cycle with
  | none => rwa [(Region.controllers_of_not (.inr hc) queue k').1]
  | some c =>
    rw [hc] at h
    obtain ⟨c', hc'⟩ : ∃ c', (g.sealedEntry queue k').cycle = some c' := by
      obtain ⟨f, e⟩ := g.sealedEntry_eq queue k'
      exact ⟨f c, by rw [e, Region.modCycle_cycle, hc, Option.map_some]⟩
    obtain ⟨c₀, h₀, ⟨rfl, -⟩ | ⟨-, -, ready, rfl⟩⟩ := Region.sealedEntry_cycle hc'
    · rwa [hc', ← h₀, hc]
    · cases hc.symm.trans h₀
      rw [hc']
      exact h.pubMoved c.sealPending (fun _ => by decide) fun _ => Cycle.stale_of_readyToSeal ready

/-! ### The acts keep the copies -/

/-- The invariant behind `State.copiesAgree`, region by region. -/
def State.copied (s : State) : Prop := ∀ k, CopiesOn s.slots k (s.cycle? k)

theorem State.copied.of_same (h : s.copied) (hs : t.slots = s.slots) (ht : t.table = s.table) : t.copied := fun k => by
  rw [hs, State.cycle?_of_table ht]
  exact h k

/-- One region changes its cycle items, and no slot changes. -/
theorem State.copied.of_set (h : s.copied) (hs : t.slots = s.slots) (ht : t.table = s.table.set k (some g))
    (hk : CopiesOn s.slots k g.cycle) : t.copied := fun j => by
  rw [hs, State.cycle?_of_set ht]
  split
  · rename_i hj
    exact hj ▸ hk
  · exact h j

theorem State.copied.at (h : s.copied) (hg : s.region? k = some g) (hc : g.cycle = some c) : CopiesOn s.slots k (some c) :=
  State.cycle?_eq_some.2 ⟨g, hg, hc⟩ ▸ h k

theorem State.copied.mapRegions (h : s.copied) (f : SlotNo → Region → Region)
    (hf : ∀ k, ∀ g, s.region? k = some g → CopiesOn s.slots k g.cycle → CopiesOn s.slots k (f k g).cycle) :
    (s.mapRegions f).copied := fun k => by
  have hk := h k
  rw [s.mapRegions_slots, State.cycle?_mapRegions]
  rw [State.cycle?_eq] at hk
  cases hg : s.region? k with
  | none => rwa [hg] at hk
  | some g => 
    rw [hg] at hk
    exact hf k g hg hk

theorem State.Decides.copied {r : QRecord} (h : s.Decides r g c t) (hg : s.region? r.region = some g) (hc : g.cycle = some c)
    (hs : s.copied) : t.copied := by
  cases h with
  | copying => exact hs.of_same rfl rfl
  | demand => exact hs.of_same rfl rfl
  | read => exact hs.of_same rfl rfl
  | issue line => exact hs.of_set rfl rfl ((hs.at hg hc).dirtied line)

theorem State.on_eq_none_of_nothingLeft (h : s.nothingLeft k = true) (j : Fin 4) : (s.slots[j]).on k = none := by
  obtain ⟨-, slots, -⟩ := (s.nothingLeft_iff k).1 h
  exact CopySlot.on_eq_none_iff.2 fun y hy => slots j y hy

theorem State.Act.copied (h : s.Act t) (hs : s.copied) : t.copied := by
  cases h with
  | same => exact hs
  | controllers => exact hs.mapRegions _ fun k g _ h => (h.drainEnded s.queue k).sealEntered s.queue k
  | releaseWrite x k g c reason age limit held region state found cycle why line =>
    exact hs.of_set rfl rfl ((hs.at found cycle).dirtied fun h => by rw [h] at line; simp at line)
  | releasePost => exact hs.of_same rfl rfl
  | releaseRead x k g c age limit bank held region state found cycle =>
    obtain ⟨a, b, w, e⟩ := c.enter_keeps (.reader bank)
    exact hs.of_set rfl rfl (by rw [e]; exact (hs.at found cycle).counts a b w)
  | select r g c t first idle found cycle decides =>
    exact State.Decides.copied decides found cycle (hs.of_same rfl rfl)
  | issue r g c w t mem selected waits found cycle decides => exact decides.copied found cycle hs
  | take j k line ptr g c free work found life cycle pub stale =>
    intro k'
    rw [State.cycle?_of_set (s := s) (k := k) rfl]
    by_cases hk : k' = k
    · subst hk
      rw [if_pos rfl]
      exact CopiesOn.take (y := { region := k', line := line, source := c.front, target := c.front.other, phase := .read, attempt := 1, demanded := s.demands k' line, ending := false, buffer := [] }) (hs.at found cycle) free rfl pub stale rfl rfl
    · rw [if_neg hk]
      refine (hs k').congr fun j' => ?_
      by_cases hj : j' = j
      · subst hj
        simp [free, CopySlot.on, Ne.symm hk]
      · have : j.val ≠ j'.val := fun h => hj (Fin.ext h.symm)
        simp [this]
  | present => exact hs.of_same rfl rfl
  | grantTx port => cases port <;> exact hs.of_same rfl rfl
  | grantEngine => exact hs.of_same rfl rfl
  | grantNothing => exact hs.of_same rfl rfl
  | returns =>
    refine hs.mapRegions _ fun k g hg h => ?_
    rcases g.returnIf_cases (s.nothingLeft k) with ⟨e, -⟩ | ⟨-, nothing, e⟩
    · rwa [e]
    · rw [e]
      exact .of_none (State.on_eq_none_of_nothingLeft nothing) fun _ h => nomatch h
  | endReset => exact hs.of_same rfl rfl
  | commit => exact hs.of_same rfl rfl

/-! ### What the owner of a response does -/

/-- The response of a transaction is in its record (R13). -/
def State.portAnswered (s : State) (port : Port) (place : Nat) (status : MStatus) (data : List Word) : State :=
  s.setTracker port ((s.tracker port).map fun u =>
    if u.issuedIn place then { u with state := .done (portStatus status) (readData u.req status data) } else u)

/-- A replay write has been answered: the unit is IDLE, and its record, if it is still queued, has left (R105). -/
def State.replayDone (s : State) : State := { s with replay := .idle, queue := s.queue.filter fun r => !r.selected }

/-- Everything the owner of an M response can do with it (R13, R105, R116, R117, R122 to R125, R160). -/
inductive State.Handed (s : State) : Owner → State → Prop
  | gone (port : Port) (place : Nat) : s.Handed (.port port place) s
  | answered (port : Port) (place : Nat) (status : MStatus) (data : List Word) :
      s.Handed (.port port place) (s.portAnswered port place status data)
  | unmatched (port : Port) (place : Nat) (status : MStatus) (data : List Word) :
      s.Handed (.port port place) ((s.portAnswered port place status data).setDevCond .unmatchedMemerr)
  | reported (port : Port) (place : Nat) (status : MStatus) (data : List Word) (k : SlotNo) :
      s.Handed (.port port place) ((s.portAnswered port place status data).reportError k false)
  | slotFree (j : Fin 4) (free : s.slots[j] = .free) : s.Handed (.engine (.slot j)) s
  | slotFinished (j : Fin 4) (k : SlotNo) (ph : Phase) (slot : s.slots[j] = .finishing k ph) :
      s.Handed (.engine (.slot j)) (s.setSlot j .free)
  | slotEnded (j : Fin 4) (y : Copy) (slot : s.slots[j] = .copying y) : s.Handed (.engine (.slot j)) (s.endRetired j y)
  | slotRead (j : Fin 4) (y : Copy) (data : List Word) (slot : s.slots[j] = .copying y) :
      s.Handed (.engine (.slot j)) (s.copyWrite j y data)
  | slotCopied (j : Fin 4) (y : Copy) (slot : s.slots[j] = .copying y) : s.Handed (.engine (.slot j)) (s.endCopy j y)
  | slotRetries (j : Fin 4) (y : Copy) (third : Bool) (slot : s.slots[j] = .copying y)
      (copying : (s.reportError y.region third).slots[j] = .copying y) :
      s.Handed (.engine (.slot j)) ((s.reportError y.region third).copyRetry j y)
  | slotLost (j : Fin 4) (y : Copy) (third : Bool) (slot : s.slots[j] = .copying y)
      (lost : ∀ x, (s.reportError y.region third).slots[j] ≠ .copying x) :
      s.Handed (.engine (.slot j)) (s.reportError y.region third)
  | replayFree (free : s.replay.isIssued = false) : s.Handed (.engine .replay) s
  | replayDone (k : SlotNo) (w : MRequest) (issued : s.replay = .issued k w) : s.Handed (.engine .replay) s.replayDone
  | replayError (k : SlotNo) (w : MRequest) (issued : s.replay = .issued k w) :
      s.Handed (.engine .replay) (s.replayDone.reportError k false)

theorem State.slots_reportError (s : State) (k : SlotNo) (third : Bool) (j : Fin 4) (y : Copy)
    (h : (s.reportError k third).slots[j] = .copying y) : s.slots[j] = .copying y := by
  rcases s.reportError_cases k third with ⟨-, e⟩ | ⟨g, hg, ⟨e, -⟩ | ⟨e, -⟩⟩ <;> rw [e] at h
  · exact h
  · exact h
  · exact (State.fence_not_copying _ k j y h).2

theorem State.handed (s : State) (o : Owner) (status : MStatus) (data : List Word) :
    s.Handed o (s.handOver o status data) := by
  cases o with
  | port port place =>
    simp only [State.handOver, State.portResponse]
    split
    · exact .gone port place
    · split
      · exact .answered port place .okay data
      · simp only [State.upstreamError]
        split
        · exact .reported port place .error data _
        · exact .unmatched port place .error data
  | engine e =>
    cases e with
    | replay =>
      simp only [State.handOver, State.replayResponse]
      split
      · exact .replayFree (by simp [*, Replay.isIssued])
      · exact .replayFree (by simp [*, Replay.isIssued])
      · split
        · split
          · exact .replayDone _ _ ‹_›
          · exact .replayError _ _ ‹_›
        · exact .replayDone _ _ ‹_›
    | slot j =>
      simp only [State.handOver, State.slotResponse]
      split
      · exact .slotFree j ‹_›
      · exact .slotFinished j _ _ ‹_›
      · split
        · exact .slotEnded j _ ‹_›
        · split
          · exact .slotRead j _ data ‹_›
          · exact .slotCopied j _ ‹_›
          · rename_i _ y hj _ _ _
            simp only [State.copyError]
            split
            · rename_i x hx
              cases hj.symm.trans (s.slots_reportError _ _ j x hx)
              exact .slotRetries j y _ hj hx
            · rename_i hx
              exact .slotLost j y _ hj fun x => by rw [hx]; exact nofun
            · rename_i hx
              exact .slotLost j y _ hj fun x => by rw [hx]; exact nofun

/-! ### The commands keep the copies -/

theorem State.copied.modRegion (h : s.copied) (k : SlotNo) (f : Region → Region)
    (hf : ∀ g, s.region? k = some g → CopiesOn s.slots k g.cycle → CopiesOn s.slots k (f g).cycle) : (s.modRegion k f).copied := by
  cases hg : s.region? k with
  | none => rwa [s.modRegion_of_none k f hg]
  | some g =>
    rw [s.modRegion_of_some k f g hg]
    exact h.of_set rfl rfl (hf g hg (State.cycle?_of_some hg ▸ h k))

theorem State.copied.modCycle (h : s.copied) (k : SlotNo) (f : Cycle → Cycle)
    (hf : ∀ c, s.cycle? k = some c → CopiesOn s.slots k (some c) → CopiesOn s.slots k (some (f c))) : (s.modCycle k f).copied := by
  refine h.modRegion k _ fun g hg hk => ?_
  cases hc : g.cycle with
  | none => rwa [Region.modCycle_of_none hc]
  | some c => 
    rw [Region.modCycle_of_some hc]
    exact hf c (State.cycle?_eq_some.2 ⟨g, hg, hc⟩) (hc ▸ hk)

theorem State.copied.entered (h : s.copied) (k : SlotNo) (e : CountEntry) : (s.modCycle k (·.enter e)).copied :=
  h.modCycle k _ fun c _ hc => by
    obtain ⟨a, b, w, e'⟩ := c.enter_keeps e
    rw [e']
    exact hc.counts a b w

theorem State.copied_accept {port : Port} {req : Request} {res : Resolution} (hr : s.Resolves port req res) (h : s.copied) :
    (s.accept port req res).copied := by
  have added : ∀ region bank phys state count, (s.addTx port req region bank phys state count).copied := fun region bank phys state count => by
    refine h.of_same ?_ (s.addTx_table port req region bank phys state count)
    cases port <;> rfl
  cases hr with
  | boundary => exact added _ _ _ _ _
  | unmatchedRefused => exact (added none none none (.done .refused []) none).of_same rfl rfl
  | passed => exact added _ _ _ _ _
  | refused k => exact (added _ _ _ _ _).modRegion k _ fun _ _ h => h
  | fenced => exact added _ _ _ _ _
  | single => exact added _ _ _ _ _
  | read k g c bank phys => exact (added _ _ _ _ _).entered k _
  | draftWrite k g c phys onP found life cycle pub none line =>
    refine State.copied.modCycle (State.copied.of_same (added _ _ _ _ _) rfl rfl) k _ fun c' hc' h => ?_
    have same : c' = c := by
      rw [State.cycle?_of_table (s := s) (s.addTx_table port req _ _ _ _ _), State.cycle?_of_some found, cycle] at hc'
      exact (Option.some.inj hc').symm
    subst same
    obtain ⟨a, b, w, e⟩ := (c'.setLine (g.defn.lineOf req.addr) .dirty).enter_keeps .writer
    rw [e]
    exact (h.dirtied line).counts a b w
  | holdWrite k g c reason =>
    have entered := State.copied.entered (added (some k) (some c.draft) none (s.newHold reason) (some .writer)) k .writer
    simp only [State.accept]
    split
    · simp only [State.joinDemand]
      split
      · exact entered
      · exact entered.of_same rfl rfl
    · exact entered
  | holdQueue => exact added _ _ _ _ _
  | holdOverlap => exact added _ _ _ _ _
  | posted k g c => exact h.of_same (by cases port <;> rfl) (State.addTx_table _ port req _ _ _ _ _)

theorem Region.fenced_cycle (g : Region) (n : Nat) :
    (g.fenced n).cycle = g.cycle.map fun c => { c.giveUpCopies with pub := .halted, sealPending := false } := by
  rw [Region.fenced_eq]
  rfl

theorem Cycle.giveUpCopies_lines (c : Cycle) (l : Nat) : c.giveUpCopies.lines[l]? ≠ some .copying := by
  simp only [Cycle.giveUpCopies, List.getElem?_map]
  cases c.lines[l]? with
  | none => simp
  | some x => cases x <;> simp

theorem CopySlot.on_of_not_holds {x : CopySlot} (h : x.holds k = false) : x.on k = none :=
  CopySlot.on_eq_none_iff.2 fun y hy hk => by simp [CopySlot.holds, hy, hk] at h

theorem State.givenUp_on (s : State) (j : Fin 4) (k : SlotNo) : (s.givenUp j).on k = none := by
  rw [State.givenUp]
  split
  · split <;> rfl
  · rfl
  · rfl

/-- After a fence no slot holds a line of the region; what slots hold of other regions is as before. -/
theorem State.fence_on (s : State) (k k' : SlotNo) (j : Fin 4) :
    ((s.fence k).slots[j]).on k' = if k' = k then none else (s.slots[j]).on k' := by
  rw [State.fence_slots]
  by_cases hk : k' = k
  · subst hk
    rw [if_pos rfl]
    split
    · exact s.givenUp_on j k'
    · exact CopySlot.on_of_not_holds (Bool.eq_false_iff.2 ‹_›)
  · rw [if_neg hk]
    split
    · rename_i hold
      obtain ⟨y, hy, hr⟩ := (CopySlot.holds_iff _ _).1 hold
      rw [s.givenUp_on, hy]
      simp [CopySlot.on, hr, Ne.symm hk]
    · rfl

theorem State.fence_cycle? (s : State) (k j : SlotNo) : (s.fence k).cycle? j =
    if j = k then (s.cycle? k).map fun c => { c.giveUpCopies with pub := .halted, sealPending := false } else s.cycle? j := by
  rw [State.cycle?_eq, State.fence_region?, State.cycle?_eq]
  split
  · cases s.region? k with
    | none => rfl
    | some g => exact g.fenced_cycle _
  · rfl

theorem State.copied.fence (h : s.copied) (k : SlotNo) : (s.fence k).copied := fun k' => by
  rw [State.fence_cycle?]
  by_cases hk : k' = k
  · subst hk
    rw [if_pos rfl]
    refine .of_none (fun j => by rw [s.fence_on, if_pos rfl]) fun c hc => ?_
    obtain ⟨c₀, -, rfl⟩ := Option.map_eq_some_iff.1 hc
    exact ⟨c₀.giveUpCopies_lines, nofun⟩
  · rw [if_neg hk]
    exact (h k').congr fun j => by rw [s.fence_on, if_neg hk]

theorem State.copied.report (h : s.copied) (k : SlotNo) (third : Bool) : (s.reportError k third).copied := by
  have charged : ∀ g, s.region? k = some g → (s.putRegion k (some g.afterReport)).copied := fun g hg =>
    h.of_set rfl rfl (g.afterReport_keeps.2.2.1 ▸ State.cycle?_of_some hg ▸ h k)
  rcases s.reportError_cases k third with ⟨-, e⟩ | ⟨g, hg, ⟨e, -⟩ | ⟨e, -⟩⟩ <;> rw [e]
  · exact h
  · exact charged g hg
  · exact (charged g hg).fence k

theorem State.copied.portAnswered (h : s.copied) (port : Port) (place : Nat) (status : MStatus) (data : List Word) :
    (s.portAnswered port place status data).copied := by
  cases port <;> exact h.of_same rfl rfl

/-- A slot keeps its line, whatever else it holds. -/
theorem State.copied.setSlot_same (h : s.copied) {j : Fin 4} {x : CopySlot} (hx : ∀ k, x.on k = (s.slots[j]).on k) :
    (s.setSlot j x).copied := fun k => by
  refine CopiesOn.congr (slots := s.slots) (h k) fun j' => ?_
  by_cases hj : j' = j
  · subst hj
    simp [hx]
  · have : j.val ≠ j'.val := fun h => hj (Fin.ext h.symm)
    simp [this]

/-- A slot is freed and its line leaves COPYING. -/
theorem State.copied.freed (h : s.copied) {j : Fin 4} {y : Copy} (hj : s.slots[j] = .copying y) {l : LineState}
    (other : l ≠ .copying) (sealed : ∀ c, s.cycle? y.region = some c → c.pub = .isSealed → l.staleUnit = 0) :
    ((s.setSlot j .free).modCycle y.region (·.setLine y.line l)).copied := by
  obtain ⟨c, hc, hline, hpub, -⟩ := (h y.region).taken j y.line y.source y.target (by rw [hj, CopySlot.on_copying rfl])
  intro k
  have same := State.cycle?_of_table (s.setSlot_table j .free)
  rw [State.modCycle_slots, State.cycle?_modCycle, same, same, State.setSlot_slots]
  by_cases hk : k = y.region
  · subst hk
    obtain ⟨hp, -, -, hfront, -⟩ := c.setLine_keeps y.line l
    rw [if_pos rfl, hc]
    refine CopiesOn.drop (hc ▸ h y.region) hj rfl rfl other (c.setLine_lines y.line l) hp hfront fun hs => ?_
    exact Cycle.setLine_stale_zero (sealed c hc (hp ▸ hs)) ((h y.region).closed c hc (hp ▸ hs))
  · rw [if_neg hk]
    refine (h k).congr fun j' => ?_
    by_cases hjj : j' = j
    · subst hjj
      simp [hj, CopySlot.on, Ne.symm hk]
    · have : j.val ≠ j'.val := fun h => hjj (Fin.ext h.symm)
      simp [this]

/-- The cycle items of every region count their lines (R46). -/
def State.counted (s : State) : Prop := ∀ k, ∀ c, s.cycle? k = some c → c.counted

theorem State.counted_of_countsAgree (h : s.countsAgree) : s.counted := fun k c hc => by
  obtain ⟨g, hg, hgc⟩ := State.cycle?_eq_some.1 hc
  exact ((s.countsAgree_iff.1 h) k g hg c hgc).1

theorem Cycle.counted.stale_pos (h : c.counted) {l : Nat} {x : LineState} (hl : c.lines[l]? = some x)
    (hx : x = .stale ∨ x = .copying) : 0 < c.stale := by
  rw [h.1, List.countP_pos_iff]
  exact ⟨x, List.mem_of_getElem? hl, by rcases hx with rfl | rfl <;> rfl⟩

theorem State.Handed.copied {o : Owner} (h : s.Handed o t) (hc : s.counted) (hs : s.copied) : t.copied := by
  cases h with
  | gone => exact hs
  | answered port place status data => exact hs.portAnswered port place status data
  | unmatched port place status data => exact (hs.portAnswered port place status data).of_same rfl rfl
  | reported port place status data k => exact (hs.portAnswered port place status data).report k false
  | slotFree => exact hs
  | slotFinished j k ph slot => exact hs.setSlot_same fun k' => by rw [slot]; rfl
  | slotEnded j y slot =>
    refine hs.freed slot (by decide) fun c hcy hseal => ?_
    obtain ⟨c', hc', hline, -⟩ := (hs y.region).taken j y.line y.source y.target (by rw [slot, CopySlot.on_copying rfl])
    cases hcy.symm.trans hc'
    have pos := (hc y.region c hcy).stale_pos hline (.inr rfl)
    rw [(hs y.region).closed c hcy hseal] at pos
    exact absurd pos (by decide)
  | slotRead j y data slot =>
    exact State.copied.of_same (hs.setSlot_same (j := j) fun k => by rw [slot]; rfl) rfl rfl
  | slotCopied j y slot => exact hs.freed slot (by decide) fun _ _ _ => rfl
  | slotRetries j y third slot copying =>
    exact State.copied.of_same ((hs.report y.region third).setSlot_same (j := j) fun k => by rw [copying]; rfl) rfl rfl
  | slotLost j y third => exact hs.report y.region third
  | replayFree => exact hs
  | replayDone => exact hs.of_same rfl rfl
  | replayError k w => exact State.copied.report (s := s.replayDone) (hs.of_same rfl rfl) k false

theorem State.copied.settle (h : s.copied) : s.settle.copied := State.settle_keeps (fun _ _ h a => a.copied h) h

theorem State.copied.holdExpiry (h : s.copied) : s.holdExpiry.copied := by
  simp only [State.holdExpiry]
  split
  · exact h
  · split
    · have done := h.of_same (s.modHeld_slots fun t => { t with state := .done .timeout [] }) (s.modHeld_table _)
      split
      · exact done.modRegion _ _ fun _ _ h => h
      · exact done
    · exact h

/-- Lines that are all STALE or SYNC hold no copy. -/
theorem replicate_not_copying {l : LineState} (hl : l ≠ .copying) (m n : Nat) : (List.replicate m l)[n]? ≠ some .copying := by
  rw [List.getElem?_replicate]
  split
  · exact fun h => hl (Option.some.inj h)
  · exact nofun

theorem Cycle.publish_lines {n : Nat} (h : c.lines[n]? ≠ some .copying) : c.publish.lines[n]? ≠ some .copying := by
  have lines : c.publish.lines = c.lines.map fun l => if l = .dirty then .stale else l := rfl
  rw [lines, List.getElem?_map]
  cases hl : c.lines[n]? with
  | none => simp
  | some x =>
    rw [hl] at h
    cases x <;> simp_all

theorem Cycle.publish_not_sealed (c : Cycle) : c.publish.pub ≠ .isSealed := by
  simp only [Cycle.publish]
  split <;> decide

/-- A SEALED region has no line in a copy slot. -/
theorem CopiesOn.on_sealed (h : CopiesOn slots k (some c)) (hc : c.counted) (hs : c.pub = .isSealed) (j : Fin 4) :
    (slots[j]).on k = none := by
  match hj : (slots[j]).on k with
  | none => rfl
  | some (l, a, b) =>
    obtain ⟨d, hd, hline, -⟩ := h.taken j l a b hj
    cases hd
    have pos := hc.stale_pos hline (.inr rfl)
    rw [h.closed c rfl hs] at pos
    exact absurd pos (by decide)

theorem CopiesOn.epoch (h : CopiesOn slots k g.cycle) (hc : ∀ c, g.cycle = some c → c.counted) :
    CopiesOn slots k g.epoch.cycle := by
  cases hgc : g.cycle with
  | none =>
    simp only [Region.epoch, hgc]
    rw [g.changeOffset_keeps.2.2.1]
    exact h
  | some c =>
    rw [Region.epoch_cycle hgc]
    rw [hgc] at h
    split
    · rename_i hs
      have empty := h.on_sealed (hc c hgc) hs
      refine .of_none empty fun d hd => ?_
      cases hd
      exact ⟨fun l => Cycle.publish_lines (h.no_copying empty rfl l), fun hs => absurd hs c.publish_not_sealed⟩
    · exact h

theorem Region.revived_cycle (g : Region) : g.revived.cycle = g.cycle.map fun c => { c with
    lines := List.replicate c.lines.length .stale
    stale := c.lines.length
    dirty := 0
    pub := if c.readers c.draft = 0 then .opened else .draining
    sealPending := false } := rfl

theorem CopiesOn.returned (h : CopiesOn s.slots k g.cycle) : CopiesOn s.slots k (g.returnIf (s.nothingLeft k)).cycle := by
  rcases g.returnIf_cases (s.nothingLeft k) with ⟨e, -⟩ | ⟨-, nothing, e⟩
  · rwa [e]
  · rw [e]
    exact .of_none (State.on_eq_none_of_nothingLeft nothing) fun _ h => nomatch h

theorem State.copied.sealGroups (h : s.copied) (groups : Fin 4 → Bool) : (s.sealGroups groups).copied := by
  refine h.mapRegions _ fun k g _ hk => ?_
  split
  · cases hc : g.cycle with
    | none => rwa [Region.modCycle_of_none hc, hc, ← hc]
    | some c =>
      rw [Region.modCycle_of_some hc]
      rw [hc] at hk
      exact hk.sealTaken s.queue k
  · exact hk

theorem State.region?_beginSoftReset (s : State) (k : SlotNo) :
    s.beginSoftReset.region? k = (s.region? k).map Region.softReset := by
  simp [State.beginSoftReset, State.region?]

theorem State.cycle?_beginSoftReset (s : State) (k : SlotNo) : s.beginSoftReset.cycle? k = none := by
  rw [State.cycle?_eq, State.region?_beginSoftReset, Option.bind_map]
  cases s.region? k <;> rfl

theorem State.copied.answer (h : s.copied) (n : Nat) (r : Result) (d : List Byte) : (s.answer n r d).copied :=
  h.of_same (s.answer_slots n r d) (s.answer_table n r d)

theorem State.copied.commitReady (h : s.copied) : s.commitReady.copied := h.of_same s.commitReady_slots s.commitReady_table

theorem State.retireRegion_on (s : State) (k k' : SlotNo) (j : Fin 4) :
    ((s.retireRegion k).slots[j]).on k' = (s.slots[j]).on k' := by
  simp [State.retireRegion, State.markEnding]
  split
  · rename_i y hy
    rw [hy]
    split <;> rfl
  · rename_i hy
    rw [hy]
  · rename_i hy
    rw [hy]

theorem State.Does.copied (h : s.Does i t) (hc : s.counted) (hp : s.wellPlaced) (hs : s.copied) : t.copied := by
  cases h with
  | idle => exact hs
  | link => exact hs.of_same rfl rfl
  | answered port req => exact State.copied_accept (s.resolves port req) hs
  | accepted port req => exact (State.copied_accept (s.resolves port req) hs).settle
  | taken port x rest =>
    have removed : (s.setTracker port rest).copied := hs.of_same (by cases port <;> rfl) (s.setTracker_table port rest)
    refine State.copied.settle ?_
    simp only [State.leaveCount]
    split
    · refine removed.modCycle _ _ fun c _ h => ?_
      obtain ⟨a, b, w, e⟩ := c.leave_keeps ‹_›
      rw [e]
      exact h.counts a b w
    · exact removed
  | holdRelease => exact s.act_holdRelease.copied hs
  | advance => exact State.copied.holdExpiry (s := State.ageHold { s with timeBase := s.timeBase + 1 }) (hs.of_same rfl rfl)
  | holdExpiry => exact hs.holdExpiry
  | grant => exact s.act_grant.copied hs
  | memoryTakes => exact State.copied.settle (hs.of_same rfl rfl)
  | mResponse status data o rest =>
    exact ((State.handed _ o.owner status data).copied (s := { s with outstanding := rest }) hc (hs.of_same rfl rfl)).settle
  | copyTake => exact State.copied.commitReady (s.act_copyTake.copied hs)
  | replaySelect => exact State.copied.commitReady (s.act_replaySelect.copied hs)
  | replayIssue => exact State.copied.commitReady (s.act_replayIssue.copied hs)
  | sealedEntry k => exact hs.modRegion k _ fun g _ h => h.sealEntered s.queue k
  | drainEnd k => exact hs.modRegion k _ fun g _ h => h.drainEnded s.queue k
  | returnToDefined k => exact hs.modRegion k _ fun g _ h => h.returned
  | sealLine line => exact hs.sealGroups _
  | sealMask b mask => exact State.copied.answer (hs.sealGroups _) 1 .ack []
  | epoch source =>
    refine State.copied.settle (hs.mapRegions _ fun k g hg h => ?_)
    split
    · exact h.epoch fun c hgc => hc k c (State.cycle?_eq_some.2 ⟨g, hg, hgc⟩)
    · exact h
  | define b p k slot free =>
    have none : CopiesOn s.slots k none := by
      have hk := hs k
      rwa [State.cycle?_eq, free] at hk
    exact hs.of_set (g := newRegion (definitionOf p)) rfl rfl none
  | undefine b k g slot found life =>
    intro j
    have hj := hs j
    rw [State.cycle?_eq] at hj
    rw [State.answer_slots, State.putRegion_slots, State.cycle?_eq, State.answer_region?, State.region?_putRegion]
    split
    · rename_i hjk
      subst hjk
      rwa [found, Option.bind_some, State.cycle_of_defined hp found life] at hj
    · exact hj
  | activate i matched k g row found life =>
    have on : ∀ j : Fin 4, (s.slots[j]).on k = none := (hs k).on_none fun c hc => by
      rw [State.cycle?_of_some found, State.cycle_of_defined hp found life] at hc
      cases hc
    refine State.copied.settle (hs.of_set (g := g.activated matched) rfl rfl (.of_none on fun c hc => ?_))
    obtain ⟨d, -, rfl⟩ := Option.map_eq_some_iff.1 hc
    exact ⟨replicate_not_copying (by cases matched <;> decide) _, nofun⟩
  | retire b k g found life =>
    refine State.copied.settle fun k' => CopiesOn.congr (slots := s.slots) ?_ fun j => s.retireRegion_on k k' j
    have same : ((s.retireRegion k).answer 0 .ack []).cycle? k' = s.cycle? k' := by
      rw [State.cycle?_of_table ((s.retireRegion k).answer_table 0 .ack []), State.cycle?_of_table (s.retireRegion_table k), State.cycle?_modRegion]
      split
      · rename_i hk
        rw [hk, State.cycle?_eq]
        congr 1
        funext g
        exact (Region.recordDiscard_keeps _ _).2.2.1
      · rfl
    rw [same]
    exact hs k'
  | revive b k g found ok =>
    obtain ⟨-, -, c, hc, halted⟩ := g.revivable_iff.1 ok
    have on : ∀ j : Fin 4, (s.slots[j]).on k = none := (hs k).on_none fun c' hc' => by
      rw [State.cycle?_of_some found, hc] at hc'
      cases hc'
      exact halted
    have revived : (s.modRegion k Region.revived).copied := hs.modRegion k _ fun g' hg' _ => .of_none on fun d hd => by
      rw [Region.revived_cycle] at hd
      obtain ⟨c', -, rfl⟩ := Option.map_eq_some_iff.1 hd
      exact ⟨replicate_not_copying (by decide) _, fun hs => by simp only at hs; split at hs <;> cases hs⟩
    exact State.copied.settle (revived.answer 0 .ack [])
  | scroll b v k =>
    refine State.copied.answer (hs.modRegion k (·.scrolled v.toNat) fun g _ h => ?_) 2 .ack []
    have same : (g.scrolled v.toNat).cycle = g.cycle := by
      simp only [Region.scrolled]
      split <;> rfl
    rwa [same]
  | setStep b v k => exact State.copied.answer (hs.modRegion k (fun g => { g with rot := g.rot.map fun x => { x with step := v.toNat } })
      fun g _ h => h) 2 .ack []
  | clear b mask options k =>
    refine State.copied.answer (hs.modRegion k (·.cleared mask (asksCounters options)) fun g _ h => ?_) 3 .ack []
    rwa [(g.cleared_keeps mask _).2.2.1]
  | policy => exact hs.of_same rfl rfl
  | softreset =>
    refine State.copied.settle fun k => .of_none (fun j => ?_) fun c hc => ?_
    · simp only [State.answer_slots, State.beginSoftReset]
      rw [Fin.getElem_fin, Vector.getElem_ofFn]
      exact s.givenUp_on j k
    · rw [State.cycle?_of_table (s.beginSoftReset.answer_table 0 .ack []), State.cycle?_beginSoftReset] at hc
      cases hc
  | softResetEnd => exact s.act_softResetEnd.copied hs
  | hardReset i up =>
    intro k
    refine .of_none (fun j => ?_) fun c hc => ?_
    · simp [State.hardReset, State.reset, CopySlot.on]
    · obtain ⟨g, hg, -⟩ := State.cycle?_eq_some.1 hc
      rw [State.hardReset_region?] at hg
      cases hg

/-- Settles O59. -/
theorem everyStepKeepsTheCopies : Obligations.EveryStepKeepsTheCopies := by
  intro s t hc hp hs hstep
  obtain ⟨rest, i, h⟩ := State.does_of_step hstep
  rw [State.copiesAgree_iff] at hs ⊢
  exact h.copied (s := { s with pending := rest }) (State.counted_of_countsAgree hc) hp hs

end Sys2Proof.Machine
end

section
/-! PROOFS. Queued records and demand entries against the cycle items of their region, and the replay unit against queue and demand
list (Sections 4.2, 5.1 to 5.4, 6.4): what every act of the rest of a happening keeps. -/

namespace Sys2Proof.Machine

variable {s t : State} {i : Instr} {k : SlotNo} {g g' : Region} {c c' : Cycle} {recs recs' : List QRecord}
  {ents ents' : List DemandEntry}

/-! ### Life and cycle items of a slot -/

/-- Slot state and cycle items of the record in a slot. -/
def State.core (s : State) (k : SlotNo) : Option (Life × Option Cycle) := (s.region? k).map fun g => (g.life, g.cycle)

theorem State.core_of_some (hg : s.region? k = some g) : s.core k = some (g.life, g.cycle) := by
  rw [State.core, hg, Option.map_some]

theorem State.core_eq_some {l : Life} {x : Option Cycle} :
    s.core k = some (l, x) ↔ ∃ g, s.region? k = some g ∧ g.life = l ∧ g.cycle = x := by
  simp [State.core]

theorem State.core_of_table (h : t.table = s.table) (k : SlotNo) : t.core k = s.core k := by
  rw [State.core, State.core, State.region?, State.region?, h]

theorem State.core_of_set (h : t.table = s.table.set k (some g)) (j : SlotNo) :
    t.core j = if j = k then some (g.life, g.cycle) else s.core j := by
  rw [State.core, State.region?_of_set h]
  split <;> rfl

theorem State.core_mapRegions (s : State) (f : SlotNo → Region → Region) (k : SlotNo) :
    (s.mapRegions f).core k = (s.region? k).map fun g => ((f k g).life, (f k g).cycle) := by
  rw [State.core, State.region?_mapRegions, Option.map_map]
  rfl

theorem State.cycle?_eq_core (s : State) (k : SlotNo) : s.cycle? k = (s.core k).bind Prod.snd := by
  rw [State.cycle?_eq, State.core]
  cases s.region? k <;> rfl

/-! ### Records and entries of one region -/

/-- The queued records of a region, oldest first. -/
def recsOf (queue : List QRecord) (k : SlotNo) : List QRecord := queue.filter fun r => r.region = k

/-- The demand entries of a region, oldest first. -/
def entsOf (demand : List DemandEntry) (k : SlotNo) : List DemandEntry := demand.filter fun e => e.region = k

@[simp] theorem mem_recsOf {queue : List QRecord} {r : QRecord} : r ∈ recsOf queue k ↔ r ∈ queue ∧ r.region = k := by
  simp [recsOf]

@[simp] theorem mem_entsOf {demand : List DemandEntry} {e : DemandEntry} : e ∈ entsOf demand k ↔ e ∈ demand ∧ e.region = k := by
  simp [entsOf]

/-- Records and entries of an ACTIVE region fit its cycle items: each target is one of R97, those of the draft generation the older
ones; a selected record is one of R102; an entry is for a STALE line in OPEN or SEAL_WAIT; SEALED leaves no record of the draft
generation. -/
structure Fit (c : Cycle) (recs : List QRecord) (ents : List DemandEntry) : Prop where
  targets : ∀ r ∈ recs, targetFits c r.target
  order : recs.Pairwise fun q r => r.target = c.gen + 1 → q.target = c.gen + 1
  chosen : ∀ r ∈ recs, r.selected = true → (c.pub = .opened ∨ c.pub = .sealWait) ∧ r.target = c.gen + 1 ∧ c.writers = 0
  wanted : ∀ e ∈ ents, (c.pub = .opened ∨ c.pub = .sealWait) ∧ c.lines[e.line]? = some .stale

/-- Only an ACTIVE region with cycle items has records and entries, and they fit it. -/
def FitsAt (x : Option (Life × Option Cycle)) (recs : List QRecord) (ents : List DemandEntry) : Prop :=
  (∀ c, x = some (.active, some c) → Fit c recs ents) ∧ ((∀ c, x ≠ some (.active, some c)) → recs = [] ∧ ents = [])

/-- The records and entries of every region fit it. -/
def State.fitted (s : State) : Prop := ∀ k, FitsAt (s.core k) (recsOf s.queue k) (entsOf s.demand k)

theorem FitsAt.active_of_rec {x : Option (Life × Option Cycle)} (h : FitsAt x recs ents) {r : QRecord} (hr : r ∈ recs) :
    ∃ c, x = some (.active, some c) := by
  by_contra hnot
  simp only [not_exists] at hnot
  rw [(h.2 hnot).1] at hr
  cases hr

theorem FitsAt.active_of_entry {x : Option (Life × Option Cycle)} (h : FitsAt x recs ents) {e : DemandEntry} (he : e ∈ ents) :
    ∃ c, x = some (.active, some c) := by
  by_contra hnot
  simp only [not_exists] at hnot
  rw [(h.2 hnot).2] at he
  cases he

theorem FitsAt.of_active (h : Fit c recs ents) : FitsAt (some (.active, some c)) recs ents :=
  ⟨fun d hd => by cases hd; exact h, fun hnot => absurd rfl (hnot c)⟩

theorem FitsAt.of_empty (x : Option (Life × Option Cycle)) : FitsAt x [] [] :=
  ⟨fun _ _ => ⟨nofun, .nil, nofun, nofun⟩, fun _ => ⟨rfl, rfl⟩⟩

theorem State.fitted.of_same (h : s.fitted) (ht : t.table = s.table) (hq : t.queue = s.queue) (hd : t.demand = s.demand) :
    t.fitted := fun k => by
  rw [State.core_of_table ht, hq, hd]
  exact h k

/-- Only what stands of one region has changed. -/
theorem State.fitted.of_region (h : s.fitted) (k : SlotNo) (hcore : ∀ j, j ≠ k → t.core j = s.core j)
    (hq : ∀ j, j ≠ k → recsOf t.queue j = recsOf s.queue j) (hd : ∀ j, j ≠ k → entsOf t.demand j = entsOf s.demand j)
    (hk : FitsAt (t.core k) (recsOf t.queue k) (entsOf t.demand k)) : t.fitted := fun j => by
  by_cases hj : j = k
  · exact hj ▸ hk
  · rw [hcore j hj, hq j hj, hd j hj]
    exact h j

theorem State.fitted.fit (h : s.fitted) (hg : s.region? k = some g) (hl : g.life = .active) (hc : g.cycle = some c) :
    Fit c (recsOf s.queue k) (entsOf s.demand k) :=
  (h k).1 c (by rw [State.core_of_some hg, hl, hc])

/-! ### What keeps the fit -/

/-- The cycle items differ in counts and line map only, and no writer has come. -/
structure Cycle.Alike (c c' : Cycle) : Prop where
  pub : c'.pub = c.pub
  pending : c'.sealPending = c.sealPending
  gen : c'.gen = c.gen
  front : c'.front = c.front
  writers : c.writers = 0 → c'.writers = 0

theorem Cycle.Alike.refl (c : Cycle) : c.Alike c := ⟨rfl, rfl, rfl, rfl, id⟩

theorem Cycle.alike_setLine (c : Cycle) (n : Nat) (l : LineState) : c.Alike (c.setLine n l) := by
  obtain ⟨hp, hs, hg, hf, -, -, hw⟩ := c.setLine_keeps n l
  exact ⟨hp, hs, hg, hf, fun h => hw ▸ h⟩

theorem Cycle.Alike.targetFits {v : BitVec 16} (h : c.Alike c') (hv : Machine.targetFits c v) : Machine.targetFits c' v := by
  simpa only [Machine.targetFits, h.pub, h.pending, h.gen] using hv

/-- Counts and lines may change as long as the lines of the remaining entries stay STALE. -/
theorem Fit.alike (h : Fit c recs ents) (ha : c.Alike c')
    (he : ∀ e ∈ ents', e ∈ ents ∧ (c.lines[e.line]? = some .stale → c'.lines[e.line]? = some .stale)) : Fit c' recs ents' := by
  refine ⟨fun r hr => ha.targetFits (h.targets r hr), ?_, fun r hr hs => ?_, fun e hm => ?_⟩
  · rw [ha.gen]
    exact h.order
  · obtain ⟨hp, ht, hw⟩ := h.chosen r hr hs
    exact ⟨ha.pub ▸ hp, ha.gen ▸ ht, ha.writers hw⟩
  · obtain ⟨hmem, hline⟩ := he e hm
    obtain ⟨hp, hl⟩ := h.wanted e hmem
    exact ⟨ha.pub ▸ hp, hline hl⟩

/-- Some records may leave. -/
theorem Fit.sublist (h : Fit c recs ents) (hr : recs'.Sublist recs) (he : ∀ e ∈ ents', e ∈ ents) : Fit c recs' ents' :=
  ⟨fun r hm => h.targets r (hr.subset hm), h.order.sublist hr, fun r hm => h.chosen r (hr.subset hm),
    fun e hm => h.wanted e (he e hm)⟩

/-- A record posted now takes its place behind the others (R96, R97). -/
theorem Fit.post (h : Fit c recs ents) (hp : c.pub ≠ .halted) {r : QRecord} (ht : r.target = c.target) (hs : r.selected = false) :
    Fit c (recs ++ [r]) ents := by
  have apart : c.gen + 2 ≠ c.gen + 1 := by
    intro e
    have := congrArg BitVec.toNat e
    simp at this
    omega
  have fits : targetFits c r.target := by
    rw [ht, Cycle.target_eq, targetNow]
    refine ⟨hp, fun h => ?_, fun h => ?_, fun h h' => ?_, fun h => ?_⟩
    · simp [h]
    · simp [h]
    · simp [h, h']
    · split
      · exact .inr rfl
      · exact .inl rfl
  refine ⟨fun q hq => ?_, List.pairwise_append.2 ⟨h.order, List.pairwise_singleton _ _, fun q hq x hx hgen => ?_⟩, fun q hq hsel => ?_,
    h.wanted⟩
  · rcases List.mem_append.1 hq with hq | hq
    · exact h.targets q hq
    · rw [List.mem_singleton.1 hq]
      exact fits
  · obtain rfl := List.mem_singleton.1 hx
    obtain ⟨-, opened, sealed, drains, waits⟩ := h.targets q hq
    rw [ht, Cycle.target_eq, targetNow] at hgen
    split at hgen
    · exact absurd hgen apart
    · rename_i hnot
      simp only [not_or, not_and, Bool.not_eq_true] at hnot
      cases hpub : c.pub with
      | opened => exact opened hpub
      | sealWait => exact absurd hpub hnot.1
      | isSealed => exact absurd hpub hnot.2.1
      | draining => exact drains hpub (hnot.2.2 hpub)
      | halted => exact absurd hpub hp
  · rcases List.mem_append.1 hq with hq | hq
    · exact h.chosen q hq hsel
    · rw [List.mem_singleton.1 hq, hs] at hsel
      cases hsel

/-- A change of publish state and seal-pending flag under which the targets still fit. -/
theorem Fit.pubMoved (h : Fit c recs ents) (pub : PubState) (pending : Bool)
    (ht : ∀ r ∈ recs, targetFits c r.target → targetFits { c with pub := pub, sealPending := pending } r.target)
    (hs : ∀ r ∈ recs, r.selected = true → c.pub = .opened ∨ c.pub = .sealWait → r.target = c.gen + 1 → pub = .opened ∨ pub = .sealWait)
    (he : ∀ e ∈ ents, c.pub = .opened ∨ c.pub = .sealWait → c.lines[e.line]? = some .stale → pub = .opened ∨ pub = .sealWait) :
    Fit { c with pub := pub, sealPending := pending } recs ents := by
  refine ⟨fun r hr => ht r hr (h.targets r hr), h.order, fun r hr hsel => ?_, fun e hm => ?_⟩
  · obtain ⟨hp, htarget, hw⟩ := h.chosen r hr hsel
    exact ⟨hs r hr hsel hp htarget, htarget, hw⟩
  · obtain ⟨hp, hl⟩ := h.wanted e hm
    exact ⟨he e hm hp hl, hl⟩

theorem Cycle.readyToSeal_targets {queue : List QRecord} (h : c.readyToSeal queue k = true) :
    (∀ r ∈ recsOf queue k, r.target ≠ c.gen + 1) ∧ c.writers = 0 := by
  simp only [Cycle.readyToSeal, hasTarget, Cycle.draftGen, Bool.and_eq_true, Bool.not_eq_true', List.any_eq_false, beq_iff_eq,
    not_and] at h
  refine ⟨fun r hr => ?_, h.2⟩
  obtain ⟨hm, hk⟩ := mem_recsOf.1 hr
  exact h.1.2 r hm hk

theorem Fit.not_stale_zero (h : Fit c recs ents) (hc : c.counted) (hz : c.stale = 0) : ents = [] := by
  refine List.eq_nil_iff_forall_not_mem.2 fun e he => ?_
  have pos := hc.stale_pos (h.wanted e he).2 (.inl rfl)
  omega

/-- A region that is ready has nothing of its draft generation left (R72). -/
theorem Fit.toSealed {queue : List QRecord} (h : Fit c (recsOf queue k) ents) (hc : c.counted)
    (ready : c.readyToSeal queue k = true) (hp : c.pub ≠ .isSealed) (pending : Bool) :
    Fit { c with pub := .isSealed, sealPending := pending } (recsOf queue k) ents := by
  obtain ⟨none, -⟩ := Cycle.readyToSeal_targets ready
  refine h.pubMoved .isSealed pending (fun r hr ht => ?_) (fun r hr _ _ ht => absurd ht (none r hr)) fun e he => ?_
  · obtain ⟨halted, opened, sealed, drains, waits⟩ := ht
    have later : c.pub = .sealWait ∨ c.pub = .draining → r.target = c.gen + 2 := fun h => (waits h).resolve_left (none r hr)
    refine ⟨by simp, by simp, fun _ => ?_, by simp, by simp⟩
    cases hpub : c.pub with
    | opened => exact absurd (opened hpub) (none r hr)
    | sealWait => exact later (.inl hpub)
    | isSealed => exact absurd hpub hp
    | draining => exact later (.inr hpub)
    | halted => exact absurd hpub halted
  · rw [h.not_stale_zero hc (Cycle.stale_of_readyToSeal ready)] at he
    cases he

theorem Fit.toSealWait (h : Fit c recs ents) (hp : c.pub = .opened ∨ c.pub = .draining) (pending : Bool) :
    Fit { c with pub := .sealWait, sealPending := pending } recs ents := by
  refine h.pubMoved .sealWait pending (fun r _ ht => ?_) (fun _ _ _ _ _ => .inr rfl) fun _ _ _ _ => .inr rfl
  obtain ⟨-, opened, -, -, waits⟩ := ht
  refine ⟨by simp, by simp, by simp, by simp, fun _ => ?_⟩
  rcases hp with hp | hp
  · exact .inl (opened hp)
  · exact waits (.inr hp)

theorem Fit.sealTaken {queue : List QRecord} (h : Fit c (recsOf queue k) ents) (hc : c.counted) :
    Fit (c.takeSeal queue k) (recsOf queue k) ents := by
  simp only [Cycle.takeSeal]
  split
  · rename_i hp
    by_cases ready : c.readyToSeal queue k = true
    · rw [if_pos ready]
      exact h.toSealed hc ready (by simp [hp]) c.sealPending
    · rw [if_neg ready]
      exact h.toSealWait (.inl hp) c.sealPending
  · rename_i hp
    refine h.pubMoved c.pub true (fun r _ ht => ?_) (fun _ _ _ hw _ => hw) fun _ _ hw _ => hw
    obtain ⟨halted, opened, sealed, -, waits⟩ := ht
    exact ⟨halted, opened, sealed, fun _ => nofun, waits⟩
  all_goals exact h

/-- The end of a drain keeps what stands of the region: it has no entries and no selected record (R87). -/
theorem Fit.drainEnded {queue : List QRecord} (h : Fit c (recsOf queue k) ents) (hc : c.counted) (hp : c.pub = .draining) :
    Fit (c.endDrain queue k) (recsOf queue k) ents := by
  simp only [Cycle.endDrain]
  split
  · by_cases ready : c.readyToSeal queue k = true
    · have e : ({ c with pub := .opened, sealPending := false } : Cycle).takeSeal queue k =
        { c with pub := .isSealed, sealPending := false } := congrArg (fun p => { c with pub := p, sealPending := false }) (if_pos ready)
      rw [e]
      exact h.toSealed hc ready (by simp [hp]) false
    · have e : ({ c with pub := .opened, sealPending := false } : Cycle).takeSeal queue k =
        { c with pub := .sealWait, sealPending := false } := congrArg (fun p => { c with pub := p, sealPending := false }) (if_neg ready)
      rw [e]
      exact h.toSealWait (.inr hp) false
  · rename_i hnot
    refine h.pubMoved .opened c.sealPending (fun r _ ht => ?_) (fun _ _ _ _ _ => .inl rfl) fun _ _ _ _ => .inl rfl
    exact ⟨by simp, fun _ => ht.2.2.2.1 hp (Bool.not_eq_true _ ▸ hnot), by simp, by simp, by simp⟩

theorem Fit.published (h : Fit c recs ents) (hp : c.pub = .isSealed) : Fit c.publish recs ents := by
  have later : ∀ r ∈ recs, r.target = c.publish.gen + 1 := fun r hr => by
    rw [(h.targets r hr).2.2.1 hp]
    exact (BitVec.add_assoc c.gen 1 1).symm
  refine ⟨fun r hr => ⟨?_, fun _ => later r hr, fun hs => absurd hs c.publish_not_sealed, fun _ _ => later r hr,
    fun _ => .inl (later r hr)⟩, ?_, fun r hr hs => ?_, fun e he => ?_⟩
  · simp only [Cycle.publish]
    split <;> decide
  · exact List.pairwise_of_forall_mem_list fun q hq r _ _ => later q hq
  · rcases (h.chosen r hr hs).1 with h | h <;> rw [hp] at h <;> cases h
  · rcases (h.wanted e he).1 with h | h <;> rw [hp] at h <;> cases h

/-! ### The selected record -/

theorem mem_markFirst_cases {p : QRecord → Bool} {l : List QRecord} {x : QRecord} (h : x ∈ markFirst p l) :
    x ∈ l ∨ ∃ r, l.find? p = some r ∧ x = { r with selected := true } := by
  induction l with
  | nil => cases h
  | cons r rs ih =>
    simp only [markFirst] at h
    rw [List.find?_cons]
    by_cases hp : p r = true
    · rw [if_pos hp] at h
      rcases List.mem_cons.1 h with rfl | h
      · exact .inr ⟨r, by rw [hp], rfl⟩
      · exact .inl (.tail _ h)
    · rw [if_neg hp] at h
      rcases List.mem_cons.1 h with rfl | h
      · exact .inl (.head _)
      · rcases ih h with h | ⟨q, hq, e⟩
        · exact .inl (.tail _ h)
        · exact .inr ⟨q, by simp only [hp, hq], e⟩

theorem marked_mem_markFirst {p : QRecord → Bool} {l : List QRecord} {r : QRecord} (h : l.find? p = some r) :
    { r with selected := true } ∈ markFirst p l := by
  induction l with
  | nil => cases h
  | cons x xs ih =>
    simp only [markFirst]
    rw [List.find?_cons] at h
    split at h
    · rename_i hx
      cases h
      simp [hx]
    · rename_i hx
      simp [hx, ih h]

theorem countP_selected_markFirst (p : QRecord → Bool) (l : List QRecord) :
    (markFirst p l).countP (·.selected) ≤ l.countP (·.selected) + 1 := by
  induction l with
  | nil => simp [markFirst]
  | cons r rs ih =>
    simp only [markFirst]
    split
    · simp only [List.countP_cons]
      split <;> split <;> omega
    · simp only [List.countP_cons]
      omega

/-- Marking a record changes neither regions nor targets. -/
theorem targets_markFirst (p : QRecord → Bool) (l : List QRecord) (k : SlotNo) :
    (recsOf (markFirst p l) k).map QRecord.target = (recsOf l k).map QRecord.target := by
  induction l with
  | nil => rfl
  | cons r rs ih =>
    simp only [recsOf] at ih ⊢
    simp only [markFirst]
    split
    · by_cases hk : r.region = k <;> simp [hk]
    · by_cases hk : r.region = k <;> simp [hk, ih]

theorem eq_of_countP_le_one {α : Type} {p : α → Bool} {l : List α} (h : l.countP p ≤ 1) {a b : α} (ha : a ∈ l) (hb : b ∈ l)
    (hpa : p a = true) (hpb : p b = true) : a = b := by
  induction l with
  | nil => cases ha
  | cons x xs ih =>
    rw [List.countP_cons] at h
    have rest : ∀ y ∈ xs, p y = true → p x ≠ true := fun y hy hpy hpx => by
      have : 0 < xs.countP p := List.countP_pos_iff.2 ⟨y, hy, hpy⟩
      rw [if_pos hpx] at h
      omega
    rcases List.mem_cons.1 ha with rfl | ha' <;> rcases List.mem_cons.1 hb with rfl | hb'
    · rfl
    · exact absurd hpa (rest b hb' hpb)
    · exact absurd hpb (rest a ha' hpa)
    · exact ih (by omega) ha' hb'

/-- The replay unit, the queue's selected record and the demand list belong together: at most one record is selected, none while the
unit is IDLE and one while it waits; one that waits DEMAND is partial; the list has an entry of each requester at most, none twice for
a line, and the replay unit's is for the line its record waits on. -/
structure State.Paired (s : State) : Prop where
  one : s.queue.countP (·.selected) ≤ 1
  idle : s.replay = .idle → ∀ r ∈ s.queue, r.selected = false
  waits : s.replay ≠ .idle → s.replay.isIssued = false → ∃ r ∈ s.queue, r.selected = true
  partly : s.replay = .waiting .demand → ∀ r ∈ s.queue, r.selected = true → ¬ recordIsFull r
  requesters : s.demand.Pairwise fun e f => e.requester ≠ f.requester
  lines : s.demand.Pairwise fun e f => ¬ (e.region = f.region ∧ e.line = f.line)
  replays : ∀ e ∈ s.demand, e.requester = .replay → s.replay = .waiting .demand ∧
    ∃ r ∈ s.queue, r.selected = true ∧ r.region = e.region ∧ r.line = e.line

theorem State.Paired.of_same (h : s.Paired) (hq : t.queue = s.queue) (hr : t.replay = s.replay) (hd : t.demand = s.demand) :
    t.Paired := by
  obtain ⟨one, idle, waits, part, requesters, lines, replays⟩ := h
  exact ⟨hq ▸ one, hq ▸ hr ▸ idle, hq ▸ hr ▸ waits, hq ▸ hr ▸ part, hd ▸ requesters, hd ▸ lines, hd ▸ hq ▸ hr ▸ replays⟩

/-- Counts, records and entries, and replay unit: what the acts of a happening keep in order. -/
structure State.Orderly (s : State) : Prop where
  counted : s.counted
  fitted : s.fitted
  paired : s.Paired

theorem State.Orderly.of_same (h : s.Orderly) (ht : t.table = s.table) (hq : t.queue = s.queue) (hr : t.replay = s.replay)
    (hd : t.demand = s.demand) : t.Orderly :=
  ⟨fun k c hc => h.counted k c (State.cycle?_of_table ht k ▸ hc), h.fitted.of_same ht hq hd, h.paired.of_same hq hr hd⟩

theorem State.counted.of_set (h : s.counted) (ht : t.table = s.table.set k (some g)) (hk : ∀ c, g.cycle = some c → c.counted) :
    t.counted := fun j c hc => by
  rw [State.cycle?_of_set ht] at hc
  split at hc
  · exact hk c hc
  · exact h j c hc

theorem State.counted.at (h : s.counted) (hg : s.region? k = some g) (hc : g.cycle = some c) : c.counted :=
  h k c (State.cycle?_eq_some.2 ⟨g, hg, hc⟩)

theorem State.fitted.active_of_rec (h : s.fitted) {r : QRecord} (hr : r ∈ s.queue) :
    ∃ g c, s.region? r.region = some g ∧ g.life = .active ∧ g.cycle = some c := by
  obtain ⟨c, hc⟩ := (h r.region).active_of_rec (mem_recsOf.2 ⟨hr, rfl⟩)
  obtain ⟨g, hg, hl, hgc⟩ := State.core_eq_some.1 hc
  exact ⟨g, c, hg, hl, hgc⟩

theorem State.fitted.active_of_entry (h : s.fitted) {e : DemandEntry} (he : e ∈ s.demand) :
    ∃ g c, s.region? e.region = some g ∧ g.life = .active ∧ g.cycle = some c := by
  obtain ⟨c, hc⟩ := (h e.region).active_of_entry (mem_entsOf.2 ⟨he, rfl⟩)
  obtain ⟨g, hg, hl, hgc⟩ := State.core_eq_some.1 hc
  exact ⟨g, c, hg, hl, hgc⟩

/-! ### What the replay unit decides -/

theorem entsOf_append (l : List DemandEntry) (e : DemandEntry) (k : SlotNo) :
    entsOf (l ++ [e]) k = entsOf l k ++ if e.region = k then [e] else [] := by
  rw [entsOf, List.filter_append, List.filter_singleton]
  by_cases h : e.region = k <;> simp [h, entsOf]

theorem mem_undemanded {l : List DemandEntry} {e : DemandEntry} {line : Nat} :
    (e ∈ l.filter fun e => !(e.region == k && e.line == line)) ↔ e ∈ l ∧ ¬ (e.region = k ∧ e.line = line) := by
  simp [List.mem_filter, imp_iff_not_or]

theorem entsOf_undemanded (l : List DemandEntry) (line : Nat) {j : SlotNo} (h : j ≠ k) :
    entsOf (l.filter fun e => !(e.region == k && e.line == line)) j = entsOf l j := by
  rw [entsOf, entsOf, List.filter_filter]
  refine List.filter_congr fun e _ => ?_
  by_cases hj : e.region = j
  · simp [hj, h]
  · simp [hj]

/-- The record `r` of the queue is, but for its mark, the one selected record; every entry of the replay unit is for its line, and
for a partial record. -/
structure State.Selects (s : State) (r : QRecord) : Prop where
  one : s.queue.countP (·.selected) ≤ 1
  marked : ∃ x ∈ s.queue, x.selected = true ∧ x.region = r.region ∧ x.line = r.line ∧ (recordIsFull x ↔ recordIsFull r)
  requesters : s.demand.Pairwise fun e f => e.requester ≠ f.requester
  lines : s.demand.Pairwise fun e f => ¬ (e.region = f.region ∧ e.line = f.line)
  replays : ∀ e ∈ s.demand, e.requester = .replay → e.region = r.region ∧ e.line = r.line ∧ ¬ recordIsFull r

theorem State.Decides.orderly {r : QRecord} (h : s.Decides r g c t) (hg : s.region? r.region = some g) (hc : g.cycle = some c)
    (counted : s.counted) (fitted : s.fitted) (sel : s.Selects r) : t.Orderly := by
  obtain ⟨one, ⟨x, hx, hxs, hxr, hxl, hxf⟩, requesters, lines, replays⟩ := sel
  have life : g.life = .active := by
    obtain ⟨g', c', hg', hl, -⟩ := fitted.active_of_rec hx
    rw [hxr, hg] at hg'
    cases hg'
    exact hl
  have fit := fitted.fit hg life hc
  obtain ⟨working, -, -⟩ := fit.chosen x (mem_recsOf.2 ⟨hx, hxr⟩) hxs
  have unique : ∀ y ∈ s.queue, y.selected = true → y = x := fun y hy hys => eq_of_countP_le_one one hy hx hys hxs
  have entry : ∀ e ∈ s.demand, e.region = r.region → e.line = r.line → c.lines[r.line]? = some .stale := fun e he hr hl =>
    hl ▸ (fit.wanted e (mem_entsOf.2 ⟨he, hr⟩)).2
  have stale_of : c.lines[r.line]? = some .stale → c.line r.line = .stale := fun h => c.line_of_some r.line .stale h
  cases h with
  | copying line =>
    refine ⟨counted, fitted.of_same rfl rfl rfl, one, nofun, fun _ _ => ⟨x, hx, hxs⟩, nofun, requesters, lines, fun e he hrep => ?_⟩
    obtain ⟨hr, hl, -⟩ := replays e he hrep
    rw [stale_of (entry e he hr hl)] at line
    cases line
  | demand line part =>
    have staleLine : c.lines[r.line]? = some .stale := by
      rw [Cycle.line, List.getD_eq_getElem?_getD] at line
      cases hl : c.lines[r.line]? with
      | none => rw [hl] at line; cases line
      | some l => rw [hl] at line; exact congrArg some line
    have part' : ∀ y ∈ s.queue, y.selected = true → ¬ recordIsFull y := fun y hy hys => by
      rw [unique y hy hys, hxf]
      exact part
    by_cases hex : ∃ e ∈ s.demand, e.region = r.region ∧ e.line = r.line
    · simp only [if_pos hex]
      refine ⟨counted, fitted.of_same rfl rfl rfl, one, nofun, fun _ _ => ⟨x, hx, hxs⟩, fun _ => part', requesters, lines,
        fun e he hrep => ?_⟩
      obtain ⟨hr, hl, -⟩ := replays e he hrep
      exact ⟨rfl, x, hx, hxs, hxr.trans hr.symm, hxl.trans hl.symm⟩
    · simp only [if_neg hex]
      refine ⟨counted, fitted.of_region r.region (fun _ _ => rfl) (fun _ _ => rfl) (fun j hj => ?_) ?_, one, nofun,
        fun _ _ => ⟨x, hx, hxs⟩, fun _ => part', ?_, ?_, fun e he hrep => ?_⟩
      · rw [entsOf_append, if_neg (Ne.symm hj), List.append_nil]
      · have core : s.core r.region = some (.active, some c) := by rw [State.core_of_some hg, life, hc]
        show FitsAt (s.core r.region) (recsOf s.queue r.region) (entsOf (s.demand ++ [_]) r.region)
        rw [core, entsOf_append, if_pos rfl]
        refine .of_active ⟨fit.targets, fit.order, fit.chosen, fun e he => ?_⟩
        rcases List.mem_append.1 he with he | he
        · exact fit.wanted e he
        · rw [List.mem_singleton.1 he]
          exact ⟨working, staleLine⟩
      · refine List.pairwise_append.2 ⟨requesters, List.pairwise_singleton _ _, fun e he f hf => ?_⟩
        rw [List.mem_singleton.1 hf]
        intro hrep
        obtain ⟨hr, hl, -⟩ := replays e he hrep
        exact hex ⟨e, he, hr, hl⟩
      · refine List.pairwise_append.2 ⟨lines, List.pairwise_singleton _ _, fun e he f hf => ?_⟩
        rw [List.mem_singleton.1 hf]
        exact fun ⟨hr, hl⟩ => hex ⟨e, he, hr, hl⟩
      · rcases List.mem_append.1 he with he | he
        · obtain ⟨hr, hl, -⟩ := replays e he hrep
          exact absurd ⟨e, he, hr, hl⟩ hex
        · rw [List.mem_singleton.1 he]
          exact ⟨rfl, x, hx, hxs, hxr, hxl⟩
  | read line full bars =>
    refine ⟨counted, fitted.of_same rfl rfl rfl, one, nofun, fun _ _ => ⟨x, hx, hxs⟩, nofun, requesters, lines, fun e he hrep => ?_⟩
    obtain ⟨hr, hl, part⟩ := replays e he hrep
    exact absurd (full (stale_of (entry e he hr hl))) part
  | issue line full clear =>
    refine ⟨counted.of_set rfl fun d hd => ?_, fitted.of_region r.region (fun j hj => ?_) (fun _ _ => rfl)
      (fun j hj => entsOf_undemanded _ _ hj) ?_, one, nofun, nofun, nofun, requesters.filter _, lines.filter _, fun e he hrep => ?_⟩
    · cases hd
      exact (counted.at hg hc).setLine _ _
    · rw [State.core_of_set (s := s) rfl, if_neg hj]
    · rw [State.core_of_set (s := s) rfl, if_pos rfl]
      show FitsAt (some (g.life, some (c.setLine r.line .dirty))) _ _
      rw [life]
      refine .of_active (fit.alike (c.alike_setLine r.line .dirty) fun e he => ?_)
      obtain ⟨hm, hr⟩ := mem_entsOf.1 he
      obtain ⟨hd, hne⟩ := mem_undemanded.1 hm
      have apart : r.line ≠ e.line := fun h => hne ⟨hr, h.symm⟩
      exact ⟨mem_entsOf.2 ⟨hd, hr⟩, fun hl => by rw [Cycle.setLine_lines, List.getElem?_set_ne apart, hl]⟩
    · obtain ⟨hd, hne⟩ := mem_undemanded.1 he
      obtain ⟨hr, hl, -⟩ := replays e hd hrep
      exact absurd ⟨hr, hl⟩ hne

/-! ### The acts -/

theorem State.Paired.selects (h : s.Paired) {r : QRecord} (hr : r ∈ s.queue) (hs : r.selected = true) : s.Selects r := by
  refine ⟨h.one, ⟨r, hr, hs, rfl, rfl, .rfl⟩, h.requesters, h.lines, fun e he hrep => ?_⟩
  obtain ⟨hw, x, hx, hxs, hxr, hxl⟩ := h.replays e he hrep
  cases eq_of_countP_le_one h.one hr hx hs hxs
  exact ⟨hxr.symm, hxl.symm, h.partly hw r hr hs⟩

/-- The IDLE unit's queue with its oldest eligible record marked. -/
theorem State.Orderly.marked (h : s.Orderly) (idle : s.replay = .idle) {r : QRecord} (first : s.queue.find? s.eligible = some r) :
    State.fitted { s with queue := markFirst s.eligible s.queue } ∧
    State.Selects { s with queue := markFirst s.eligible s.queue } r := by
  have unmarked := h.paired.idle idle
  have cases_of : ∀ x ∈ markFirst s.eligible s.queue, x ∈ s.queue ∨ x = { r with selected := true } := fun x hx => by
    rcases mem_markFirst_cases hx with hx | ⟨q, hq, e⟩
    · exact .inl hx
    · rw [first] at hq
      cases hq
      exact .inr e
  refine ⟨fun k => ⟨fun c hc => ?_, fun hnot => ?_⟩, ?_, ⟨_, marked_mem_markFirst first, rfl, rfl, rfl, .rfl⟩, h.paired.requesters,
    h.paired.lines, fun e he hrep => ?_⟩
  · have fit := (h.fitted k).1 c hc
    have targets := targets_markFirst s.eligible s.queue k
    refine ⟨fun x hx => ?_, ?_, fun x hx hs => ?_, fit.wanted⟩
    · obtain ⟨y, hy, e⟩ := List.mem_map.1 (targets ▸ List.mem_map_of_mem hx)
      exact e ▸ fit.targets y hy
    · have order : ((recsOf s.queue k).map QRecord.target).Pairwise fun v w => w = c.gen + 1 → v = c.gen + 1 :=
        List.pairwise_map.2 fit.order
      rw [← targets] at order
      exact List.pairwise_map.1 order
    · obtain ⟨hm, hk⟩ := mem_recsOf.1 hx
      rcases cases_of x hm with hm | rfl
      · rw [unmarked x hm] at hs
        cases hs
      · obtain ⟨g, hg, hl, c', hc', hp, ht, hw⟩ := (s.eligible_iff r).1 (List.find?_some first)
        have core : s.core k = some (g.life, g.cycle) := State.core_of_some (hk ▸ hg)
        have hc : s.core k = some (.active, some c) := hc
        rw [core, hl, Option.mem_def.1 hc'] at hc
        cases hc
        exact ⟨hp, ht, hw⟩
  · have none := (h.fitted k).2 hnot
    refine ⟨List.map_eq_nil_iff.1 ((targets_markFirst s.eligible s.queue k).trans ?_), none.2⟩
    rw [none.1, List.map_nil]
  · have count := countP_selected_markFirst s.eligible s.queue
    have zero : s.queue.countP (·.selected) = 0 := List.countP_eq_zero.2 fun x hx => by simp [unmarked x hx]
    show (markFirst s.eligible s.queue).countP (·.selected) ≤ 1
    omega
  · have waiting := (h.paired.replays e he hrep).1
    rw [idle] at waiting
    cases waiting

theorem Region.drainEnd_counted {queue : List QRecord} (hc : ∀ c, g.cycle = some c → c.counted) :
    ∀ c, (g.drainEnd queue k).cycle = some c → c.counted := fun c' hc' => by
  obtain ⟨c, hgc, ⟨rfl, -⟩ | ⟨-, hp, -, rfl⟩⟩ := Region.drainEnd_cycle hc'
  · exact hc _ hgc
  · obtain ⟨pub, pending, e, -⟩ := c.endDrain_keeps queue k hp
    exact (hc c hgc).of_eq (by rw [e]) (by rw [e]) (by rw [e])

theorem Region.sealedEntry_counted {queue : List QRecord} (hc : ∀ c, g.cycle = some c → c.counted) :
    ∀ c, (g.sealedEntry queue k).cycle = some c → c.counted := fun c' hc' => by
  obtain ⟨c, hgc, ⟨rfl, -⟩ | ⟨-, -, -, rfl⟩⟩ := Region.sealedEntry_cycle hc'
  · exact hc _ hgc
  · exact (hc c hgc).of_eq rfl rfl rfl

theorem FitsAt.drainEnded {queue : List QRecord} (h : FitsAt (some (g.life, g.cycle)) (recsOf queue k) ents)
    (hc : ∀ c, g.cycle = some c → c.counted) :
    FitsAt (some ((g.drainEnd queue k).life, (g.drainEnd queue k).cycle)) (recsOf queue k) ents := by
  by_cases hl : g.life = .active
  · cases hgc : g.cycle with
    | none => rwa [(Region.controllers_of_not (.inr hgc) queue k).2]
    | some c =>
      have fit := h.1 c (by rw [hl, hgc])
      rw [Region.drainEnd_of_active hl hgc]
      show FitsAt (some (g.life, some _)) _ _
      rw [hl]
      split
      · rename_i hd
        exact .of_active (fit.drainEnded (hc c hgc) hd.1)
      · exact .of_active fit
  · rwa [(Region.controllers_of_not (.inl hl) queue k).2]

theorem FitsAt.sealEntered {queue : List QRecord} (h : FitsAt (some (g.life, g.cycle)) (recsOf queue k) ents)
    (hc : ∀ c, g.cycle = some c → c.counted) :
    FitsAt (some ((g.sealedEntry queue k).life, (g.sealedEntry queue k).cycle)) (recsOf queue k) ents := by
  by_cases hl : g.life = .active
  · cases hgc : g.cycle with
    | none => rwa [(Region.controllers_of_not (.inr hgc) queue k).1]
    | some c =>
      have fit := h.1 c (by rw [hl, hgc])
      rw [Region.sealedEntry_of_active hl hgc]
      show FitsAt (some (g.life, some _)) _ _
      rw [hl]
      split
      · rename_i hd
        exact .of_active (fit.toSealed (hc c hgc) hd.2 (by simp [hd.1]) c.sealPending)
      · exact .of_active fit
  · rwa [(Region.controllers_of_not (.inl hl) queue k).1]

/-- Each record changes for itself; queue, replay unit and demand list stay. -/
theorem State.Orderly.mapRegions (h : s.Orderly) (f : SlotNo → Region → Region)
    (hc : ∀ k g, s.region? k = some g → (∀ c, g.cycle = some c → c.counted) → ∀ c, (f k g).cycle = some c → c.counted)
    (hf : ∀ k g, s.region? k = some g → (∀ c, g.cycle = some c → c.counted) →
      FitsAt (some (g.life, g.cycle)) (recsOf s.queue k) (entsOf s.demand k) →
      FitsAt (some ((f k g).life, (f k g).cycle)) (recsOf s.queue k) (entsOf s.demand k)) : (s.mapRegions f).Orderly := by
  have before : ∀ k g, s.region? k = some g → ∀ c, g.cycle = some c → c.counted := fun k g hg c hgc => h.counted.at hg hgc
  refine ⟨fun k c hcy => ?_, fun k => ?_, h.paired.of_same (s.mapRegions_queue f) (s.mapRegions_replay f) (s.mapRegions_demand f)⟩
  · obtain ⟨g', hg', hgc⟩ := State.cycle?_eq_some.1 hcy
    rw [State.region?_mapRegions, Option.map_eq_some_iff] at hg'
    obtain ⟨g, hg, rfl⟩ := hg'
    exact hc k g hg (before k g hg) c hgc
  · have hk := h.fitted k
    rw [State.core_mapRegions, s.mapRegions_queue, s.mapRegions_demand]
    cases hg : s.region? k with
    | none => 
      rw [State.core, hg] at hk
      exact hk
    | some g =>
      rw [State.core_of_some hg] at hk
      exact hf k g hg (before k g hg) hk

/-- One record changes its cycle items; queue, replay unit and demand list stay. -/
theorem State.Orderly.withCycle (h : s.Orderly) (hg : s.region? k = some g) (hc : g.cycle = some c)
    (ht : t.table = s.table.set k (some (g.withCycle c'))) (hq : t.queue = s.queue) (hr : t.replay = s.replay)
    (hd : t.demand = s.demand) (counted : c.counted → c'.counted)
    (fit : Fit c (recsOf s.queue k) (entsOf s.demand k) → Fit c' (recsOf s.queue k) (entsOf s.demand k)) : t.Orderly := by
  refine ⟨h.counted.of_set ht fun d hd => ?_, h.fitted.of_region k (fun j hj => ?_) (fun j _ => by rw [hq]) (fun j _ => by rw [hd]) ?_,
    h.paired.of_same hq hr hd⟩
  · cases hd
    exact counted (h.counted.at hg hc)
  · rw [State.core_of_set ht, if_neg hj]
  · have hk := h.fitted k
    rw [State.core_of_set ht, if_pos rfl, hq, hd]
    rw [State.core_of_some hg, hc] at hk
    show FitsAt (some (g.life, some c')) _ _
    by_cases hl : g.life = .active
    · rw [hl] at hk ⊢
      exact .of_active (fit (hk.1 c rfl))
    · rw [(hk.2 fun d hd => hl (congrArg Prod.fst (Option.some.inj hd))).1, (hk.2 fun d hd => hl (congrArg Prod.fst (Option.some.inj hd))).2]
      exact .of_empty _

theorem Cycle.alike_enter (c : Cycle) (b : Bank) : c.Alike (c.enter (.reader b)) := by
  cases b <;> exact ⟨rfl, rfl, rfl, rfl, id⟩

theorem Cycle.counted_enter (h : c.counted) (e : CountEntry) : (c.enter e).counted := by
  obtain ⟨a, b, w, e'⟩ := c.enter_keeps e
  rw [e']
  exact h.of_eq rfl rfl rfl

theorem recsOf_append (l : List QRecord) (r : QRecord) (k : SlotNo) :
    recsOf (l ++ [r]) k = recsOf l k ++ if r.region = k then [r] else [] := by
  rw [recsOf, List.filter_append, List.filter_singleton]
  by_cases h : r.region = k <;> simp [h, recsOf]

/-- A record of an ACTIVE region that is not HALTED joins the queue (R96). -/
theorem State.Orderly.posted (h : s.Orderly) (hg : s.region? k = some g) (hl : g.life = .active) (hc : g.cycle = some c) (hp : c.pub ≠ .halted)
    (req : Request) (ht : t.table = s.table) (hq : t.queue = s.queue ++ [recordOf k g.defn c req]) (hr : t.replay = s.replay)
    (hd : t.demand = s.demand) : t.Orderly := by
  obtain ⟨one, idle, waits, part, requesters, lines, replays⟩ := h.paired
  have old : ∀ r ∈ t.queue, r.selected = true → r ∈ s.queue := fun r hr hs => by
    rw [hq] at hr
    rcases List.mem_append.1 hr with hr | hr
    · exact hr
    · rw [List.mem_singleton.1 hr] at hs
      cases hs
  have new : ∀ r ∈ s.queue, r ∈ t.queue := fun r hr => hq ▸ List.mem_append_left _ hr
  refine ⟨fun j d hj => h.counted j d (State.cycle?_of_table ht j ▸ hj), h.fitted.of_region k (fun j _ => State.core_of_table ht j)
    (fun j hj => ?_) (fun j _ => by rw [hd]) ?_, ?_, fun hidle r hm => ?_, fun hne his => ?_, fun hw r hm hs => ?_, hd ▸ requesters, hd ▸ lines,
    fun e he hrep => ?_⟩
  · have other : (recordOf k g.defn c req).region ≠ j := Ne.symm hj
    rw [hq, recsOf_append, if_neg other, List.append_nil]
  · have core : s.core k = some (.active, some c) := by rw [State.core_of_some hg, hl, hc]
    have mine : (recordOf k g.defn c req).region = k := rfl
    rw [State.core_of_table ht, core, hq, hd, recsOf_append, if_pos mine]
    exact .of_active ((h.fitted.fit hg hl hc).post hp rfl rfl)
  · rw [hq, List.countP_append]
    exact one
  · rw [Bool.eq_false_iff]
    intro hs
    have := idle (hr ▸ hidle) r (old r hm hs)
    rw [hs] at this
    cases this
  · obtain ⟨r, hm, hs⟩ := waits (hr ▸ hne) (hr ▸ his)
    exact ⟨r, new r hm, hs⟩
  · exact part (hr ▸ hw) r (old r hm hs) hs
  · obtain ⟨hw, r, hm, hrest⟩ := replays e (hd ▸ he) hrep
    exact ⟨hr ▸ hw, r, new r hm, hrest⟩

/-- A line's entries leave the list when a slot takes it, and the unit's record on it waits COPYING now (R115). -/
theorem State.Paired.taken {line : Nat} (h : s.Paired) (hq : t.queue = s.queue)
    (hr : t.replay = if s.replayDemands k line then .waiting .copying else s.replay)
    (hd : t.demand = s.demand.filter fun e => !(e.region == k && e.line == line)) : t.Paired := by
  obtain ⟨one, idle, waits, part, requesters, lines, replays⟩ := h
  have rest : ∀ e ∈ t.demand, e.requester = .replay → t.replay = .waiting .demand ∧
      ∃ r ∈ t.queue, r.selected = true ∧ r.region = e.region ∧ r.line = e.line := fun e he hrep => by
    obtain ⟨hm, hne⟩ := mem_undemanded.1 (hd ▸ he)
    obtain ⟨hw, r, hrm, hs, hk, hl⟩ := replays e hm hrep
    have not : ¬ s.replayDemands k line = true := fun h => by
      obtain ⟨-, x, hx, hxs, hxk, hxl⟩ := (s.replayDemands_iff k line).1 h
      cases eq_of_countP_le_one one hrm hx hs hxs
      exact hne ⟨hk.symm.trans hxk, hl.symm.trans hxl⟩
    rw [hr, if_neg not, hq]
    exact ⟨hw, r, hrm, hs, hk, hl⟩
  refine ⟨hq ▸ one, fun hi => ?_, fun hne his => ?_, fun hw => ?_, hd ▸ requesters.filter _, hd ▸ lines.filter _, rest⟩
  · rw [hr] at hi
    split at hi
    · cases hi
    · exact hq ▸ idle hi
  · rw [hr] at hne his
    rw [hq]
    split at hne
    · rename_i h
      obtain ⟨-, x, hx, hxs, -⟩ := (s.replayDemands_iff k line).1 h
      exact ⟨x, hx, hxs⟩
    · rename_i h
      rw [if_neg h] at his
      exact waits hne his
  · rw [hr] at hw
    split at hw
    · cases hw
    · exact hq ▸ part hw

/-- A held P transaction is of an ACTIVE region that is not HALTED; a write held DEMAND or COPYING has entered the draft writer
count. -/
def State.heldFits (s : State) : Prop := ∀ x ∈ s.pTracker, ∀ reason, x.heldFor = some reason → ∃ k c, x.region = some k ∧
  s.core k = some (.active, some c) ∧ c.pub ≠ .halted ∧ (reason = .demand ∨ reason = .copying → x.count = some .writer)

theorem State.heldFits.at (h : s.heldFits) {x : Tx} {reason : HoldReason} {age limit : Nat} (hx : s.heldTx = some x)
    (hst : x.state = .held reason age limit) (hk : x.region = some k) (hg : s.region? k = some g) (hc : g.cycle = some c) :
    g.life = .active ∧ c.pub ≠ .halted ∧ (reason = .demand ∨ reason = .copying → x.count = some .writer) := by
  obtain ⟨k', c', hk', hcore, hp, hw⟩ := h x (s.heldTx_eq_some hx).1 reason ((x.heldFor_eq_some_iff reason).2 ⟨age, limit, hst⟩)
  rw [hk] at hk'
  cases hk'
  obtain ⟨g', hg', hl, hgc⟩ := State.core_eq_some.1 hcore
  rw [hg] at hg'
  cases hg'
  rw [hc] at hgc
  cases hgc
  exact ⟨hl, hp, hw⟩

theorem State.Act.orderly (h : s.Act t) (hh : s.heldFits) (hs : s.Orderly) : t.Orderly := by
  cases h with
  | same => exact hs
  | controllers =>
    refine hs.mapRegions _ (fun k g _ hc => Region.sealedEntry_counted (Region.drainEnd_counted hc)) fun k g _ hc h => ?_
    exact (h.drainEnded hc).sealEntered (Region.drainEnd_counted hc)
  | releaseWrite x k g c reason age limit held region state found cycle why line =>
    refine hs.withCycle found cycle rfl rfl rfl rfl (fun h => h.setLine _ _) fun fit => fit.alike (c.alike_setLine _ _) fun e he => ⟨he, fun hl => ?_⟩
    have apart : g.defn.lineOf x.req.addr ≠ e.line := fun h => by
      rw [h, c.line_of_some e.line .stale hl] at line
      simp at line
    rw [Cycle.setLine_lines, List.getElem?_set_ne apart, hl]
  | releasePost x k g c age limit held region state found cycle place =>
    obtain ⟨hl, hp, -⟩ := hh.at held state region found cycle
    exact hs.posted found hl cycle hp x.req rfl rfl rfl rfl
  | releaseRead x k g c age limit bank held region state found cycle =>
    exact hs.withCycle found cycle rfl rfl rfl rfl (fun h => Cycle.counted_enter h _) fun fit =>
      fit.alike (c.alike_enter bank) fun e he => ⟨he, fun hl => by cases bank <;> exact hl⟩
  | select r g c t first idle found cycle decides =>
    obtain ⟨fitted, sel⟩ := hs.marked idle first
    exact decides.orderly found cycle hs.counted fitted sel
  | issue r g c w t mem selected waits found cycle decides =>
    exact decides.orderly found cycle hs.counted hs.fitted (hs.paired.selects mem selected)
  | take j k line ptr g c free work found life cycle pub stale =>
    refine ⟨hs.counted.of_set rfl fun d hd => ?_, hs.fitted.of_region k (fun i hi => ?_) (fun _ _ => rfl)
      (fun i hi => entsOf_undemanded _ _ hi) ?_, hs.paired.taken rfl rfl rfl⟩
    · cases hd
      have set := (hs.counted.at found cycle).setLine line .copying
      rw [c.setLine_of_some line .copying .stale stale] at set
      exact set
    · rw [State.core_of_set (s := s) rfl, if_neg hi]
    · rw [State.core_of_set (s := s) rfl, if_pos rfl]
      show FitsAt (some (g.life, some { c with lines := c.lines.set line .copying })) _ _
      rw [life]
      refine .of_active ((hs.fitted.fit found life cycle).alike ⟨rfl, rfl, rfl, rfl, id⟩ fun e he => ?_)
      obtain ⟨hm, hr⟩ := mem_entsOf.1 he
      obtain ⟨hd, hne⟩ := mem_undemanded.1 hm
      have apart : line ≠ e.line := fun h => hne ⟨hr, h.symm⟩
      exact ⟨mem_entsOf.2 ⟨hd, hr⟩, fun hl => by rw [List.getElem?_set_ne apart, hl]⟩
  | present => exact hs.of_same rfl rfl rfl rfl
  | grantTx port => cases port <;> exact hs.of_same rfl rfl rfl rfl
  | grantEngine => exact hs.of_same rfl rfl rfl rfl
  | grantNothing => exact hs.of_same rfl rfl rfl rfl
  | returns =>
    refine hs.mapRegions _ (fun k g _ hc => ?_) fun k g _ hc h => ?_
    · rcases g.returnIf_cases (s.nothingLeft k) with ⟨e, -⟩ | ⟨-, -, e⟩ <;> rw [e]
      · exact hc
      · exact nofun
    · rcases g.returnIf_cases (s.nothingLeft k) with ⟨e, -⟩ | ⟨hl, -, e⟩ <;> rw [e]
      · exact h
      · have none := h.2 fun c hc => by rw [hl] at hc; cases hc
        rw [none.1, none.2]
        exact .of_empty _
  | endReset => exact hs.of_same rfl rfl rfl rfl
  | commit => exact hs.of_same rfl rfl rfl rfl

end Sys2Proof.Machine
end

section
/-! PROOFS. A region is SEALED only while it is ready (Section 4.3): every act of the rest of a happening keeps this of every region,
from any state; the moments at which happenings begin make no region SEALED that is not ready. -/

namespace Sys2Proof.Machine

variable {s t u : State} {i : Instr} {k : SlotNo} {g g' : Region} {c c' : Cycle}

/-- The region is not SEALED, or it is ready (R75). -/
def State.sealedAt (s : State) (k : SlotNo) : Prop := ∀ c, s.cycle? k = some c → c.pub = .isSealed → s.readiness k c

theorem State.sealedAt.of_same (h : s.sealedAt k) (ht : t.table = s.table) (hq : t.queue = s.queue) : t.sealedAt k := by
  intro c hc hs
  obtain ⟨stale, targets, writers⟩ := h c (State.cycle?_of_table ht k ▸ hc) hs
  exact ⟨stale, hq ▸ targets, writers⟩

/-- One region changes its cycle items and stays ready if it was. -/
theorem State.sealedAt.of_set {j : SlotNo} (h : s.sealedAt k) (ht : t.table = s.table.set j (some g')) (hq : t.queue = s.queue)
    (hk : ∀ c', g'.cycle = some c' → c'.pub = .isSealed →
      ∃ c, s.cycle? j = some c ∧ c.pub = .isSealed ∧ c'.gen = c.gen ∧ (c.stale = 0 → c'.stale = 0) ∧ (c.writers = 0 → c'.writers = 0)) :
    t.sealedAt k := by
  intro c' hc' hs
  rw [State.cycle?_of_set ht] at hc'
  split at hc'
  · rename_i e
    subst e
    obtain ⟨c, hc, hp, hgen, hstale, hw⟩ := hk c' hc' hs
    obtain ⟨stale, targets, writers⟩ := h c hc hp
    exact ⟨hstale stale, fun r hr hk => hgen ▸ targets r (hq ▸ hr) hk, hw writers⟩
  · obtain ⟨stale, targets, writers⟩ := h c' hc' hs
    exact ⟨stale, hq ▸ targets, writers⟩

theorem Cycle.readiness_of_ready (h : c.readyToSeal s.queue k = true) : s.readiness k c := (Cycle.readyToSeal_iff s c k).1 h

/-- The controllers make a region SEALED only when it is ready. -/
theorem Region.controlled_sealed {queue : List QRecord} (hc' : ((g.drainEnd queue k).sealedEntry queue k).cycle = some c')
    (hs : c'.pub = .isSealed) : ∃ c, g.cycle = some c ∧ c'.gen = c.gen ∧ c'.stale = c.stale ∧ c'.writers = c.writers ∧
      (c.pub = .isSealed ∨ c'.readyToSeal queue k = true) := by
  obtain ⟨c₁, h₁, step⟩ := Region.sealedEntry_cycle hc'
  obtain ⟨c₀, h₀, first⟩ := Region.drainEnd_cycle h₁
  have drained : c₁.gen = c₀.gen ∧ c₁.stale = c₀.stale ∧ c₁.writers = c₀.writers ∧
      (c₁.pub = .isSealed → c₀.pub = .isSealed ∨ c₁.readyToSeal queue k = true) := by
    rcases first with ⟨rfl, -⟩ | ⟨-, hp, -, rfl⟩
    · exact ⟨rfl, rfl, rfl, .inl⟩
    · obtain ⟨pub, pending, e, -⟩ := c₀.endDrain_keeps queue k hp
      have ready := fun hs => Cycle.endDrain_sealed (c := c₀) (queue := queue) (k := k) hs
      rw [e] at ready ⊢
      exact ⟨rfl, rfl, rfl, fun hs => .inr (ready hs)⟩
  obtain ⟨hgen, hstale, hw, hseal⟩ := drained
  rcases step with ⟨rfl, -⟩ | ⟨-, -, ready, rfl⟩
  · exact ⟨c₀, h₀, hgen, hstale, hw, hseal hs⟩
  · exact ⟨c₀, h₀, hgen, hstale, hw, .inr ready⟩

theorem State.sealedAt.mapRegions (h : s.sealedAt k) (f : SlotNo → Region → Region)
    (hf : ∀ g c', s.region? k = some g → (f k g).cycle = some c' → c'.pub = .isSealed →
      (∃ c, g.cycle = some c ∧ c.pub = .isSealed ∧ c'.gen = c.gen ∧ c'.stale = c.stale ∧ c'.writers = c.writers) ∨
      c'.readyToSeal s.queue k = true) : (s.mapRegions f).sealedAt k := by
  intro c' hc' hs
  obtain ⟨g', hg', hgc⟩ := State.cycle?_eq_some.1 hc'
  rw [State.region?_mapRegions, Option.map_eq_some_iff] at hg'
  obtain ⟨g, hg, rfl⟩ := hg'
  rw [State.readiness, s.mapRegions_queue]
  rcases hf g c' hg hgc hs with ⟨c, hc, hp, hgen, hstale, hw⟩ | ready
  · obtain ⟨stale, targets, writers⟩ := h c (State.cycle?_eq_some.2 ⟨g, hg, hc⟩) hp
    exact ⟨hstale.trans stale, hgen ▸ targets, hw.trans writers⟩
  · exact Cycle.readiness_of_ready ready

theorem Cycle.alike_sealed {n : Nat} (hp : (c.setLine n .dirty).pub = .isSealed) : c.pub = .isSealed ∧
    (c.setLine n .dirty).gen = c.gen ∧ (c.stale = 0 → (c.setLine n .dirty).stale = 0) ∧
    (c.writers = 0 → (c.setLine n .dirty).writers = 0) := by
  have alike := c.alike_setLine n .dirty
  exact ⟨alike.pub ▸ hp, alike.gen, Cycle.setLine_stale_zero rfl, alike.writers⟩

theorem State.Decides.sealedAt {r : QRecord} (h : s.Decides r g c t) (hg : s.region? r.region = some g) (hc : g.cycle = some c)
    (hs : s.sealedAt k) : t.sealedAt k := by
  cases h with
  | copying => exact hs.of_same rfl rfl
  | demand => exact hs.of_same rfl rfl
  | read => exact hs.of_same rfl rfl
  | issue =>
    refine hs.of_set rfl rfl fun c' hc' hp => ?_
    cases hc'
    exact ⟨c, State.cycle?_eq_some.2 ⟨g, hg, hc⟩, Cycle.alike_sealed hp⟩

theorem draftGen_ne (v : BitVec 16) : v + 2 ≠ v + 1 := by
  intro e
  have := congrArg BitVec.toNat e
  simp at this
  omega

theorem State.Act.sealedAt (h : s.Act t) (hs : s.sealedAt k) : t.sealedAt k := by
  cases h with
  | same => exact hs
  | controllers =>
    refine hs.mapRegions _ fun g c' _ hc' hp => ?_
    obtain ⟨c, hc, hgen, hstale, hw, hseal | ready⟩ := Region.controlled_sealed hc' hp
    · exact .inl ⟨c, hc, hseal, hgen, hstale, hw⟩
    · exact .inr ready
  | releaseWrite x k g c reason age limit held region state found cycle =>
    refine hs.of_set rfl rfl fun c' hc' hp => ?_
    cases hc'
    exact ⟨c, State.cycle?_eq_some.2 ⟨g, found, cycle⟩, Cycle.alike_sealed hp⟩
  | releasePost x j g c age limit held region state found cycle =>
    intro c' hc' hp
    obtain ⟨stale, targets, writers⟩ := hs c' hc' hp
    refine ⟨stale, fun r hr hk => ?_, writers⟩
    rcases List.mem_append.1 hr with hr | hr
    · exact targets r hr hk
    · rw [List.mem_singleton.1 hr] at hk ⊢
      obtain rfl : j = k := hk
      have same : c = c' := by
        have hj : s.cycle? j = some c' := hc'
        rw [State.cycle?_of_some found, cycle] at hj
        exact Option.some.inj hj
      subst same
      show c.target ≠ _
      rw [Cycle.target_eq, targetNow, if_pos (.inr (.inl hp))]
      exact draftGen_ne c.gen
  | releaseRead x k g c age limit bank held region state found cycle =>
    refine hs.of_set rfl rfl fun c' hc' hp => ?_
    cases hc'
    have alike := c.alike_enter bank
    exact ⟨c, State.cycle?_eq_some.2 ⟨g, found, cycle⟩, alike.pub ▸ hp, alike.gen, fun h => by cases bank <;> exact h, alike.writers⟩
  | select r g c t first idle found cycle decides =>
    refine decides.sealedAt found cycle fun c' hc' hp => ?_
    obtain ⟨stale, targets, writers⟩ := hs c' hc' hp
    refine ⟨stale, fun x hx hk => ?_, writers⟩
    obtain ⟨q, hq, rfl | rfl⟩ := mem_markFirst hx
    · exact targets _ hq hk
    · exact targets q hq hk
  | issue r g c w t mem selected waits found cycle decides => exact decides.sealedAt found cycle hs
  | take j k line ptr g c free work found life cycle pub =>
    refine hs.of_set rfl rfl fun c' hc' hp => ?_
    cases hc'
    rcases pub with h | h <;> exact nomatch h.symm.trans hp
  | present => exact hs.of_same rfl rfl
  | grantTx port => cases port <;> exact hs.of_same rfl rfl
  | grantEngine => exact hs.of_same rfl rfl
  | grantNothing => exact hs.of_same rfl rfl
  | returns =>
    refine hs.mapRegions _ fun g c' _ hc' hp => ?_
    rcases g.returnIf_cases (s.nothingLeft k) with ⟨e, -⟩ | ⟨-, -, e⟩ <;> rw [e] at hc'
    · exact .inl ⟨c', hc', hp, rfl, rfl, rfl⟩
    · cases hc'
  | endReset => exact hs.of_same rfl rfl
  | commit => exact hs.of_same rfl rfl

theorem State.sealedAt.settle (h : s.sealedAt k) : s.settle.sealedAt k := State.settle_keeps (fun _ _ h a => a.sealedAt h) h

end Sys2Proof.Machine
end

section
/-! PROOFS. Every command does one thing to the blocks, then acts of the rest of a happening follow: what each command begins with, in one
list, so that a statement about every step is proved once for each beginning and once for each act. Settles the first half of O55. -/

namespace Sys2Proof.Machine

open Relation (ReflTransGen)

variable {s t u : State} {i : Instr} {k : SlotNo} {g g' : Region} {c c' : Cycle}

/-- What a command does to the blocks before the acts that follow it. -/
inductive State.Begun (s : State) : State → Prop
  | same : s.Begun s
  | linked (free : Nat) (conds : Kinds) : s.Begun { s with freeCount := free, devConds := conds }
  | accepted (port : Port) (req : Request) (can : s.canAccept port) : s.Begun (s.accept port req (s.resolve port req))
  | taken (port : Port) (x : Tx) (rest : List Tx) (front : s.tracker port = x :: rest) :
      s.Begun ((s.setTracker port rest).leaveCount x)
  | aged : s.Begun { s with timeBase := s.timeBase + 1 }.ageHold.holdExpiry
  | expired : s.Begun s.holdExpiry
  | memoryTakes : s.Begun { s with mRequest := none }
  | handed (o : Outstanding) (rest : List Outstanding) (t : State) (oldest : s.outstanding = o :: rest)
      (hands : State.Handed { s with outstanding := rest } o.owner t) : s.Begun t
  | sealEntered (k : SlotNo) : s.Begun (s.modRegion k (·.sealedEntry s.queue k))
  | drainEnded (k : SlotNo) : s.Begun (s.modRegion k (·.drainEnd s.queue k))
  | returned (k : SlotNo) : s.Begun (s.modRegion k (·.returnIf (s.nothingLeft k)))
  | seals (groups : Fin 4 → Bool) : s.Begun (s.sealGroups groups)
  | epoch (source : Source) : s.Begun (s.epoch source)
  | defined (p : DefineParams) (k : SlotNo) (free : s.region? k = none) (valid : ValidDefinition p) :
      s.Begun (s.putRegion k (some (newRegion (definitionOf p))))
  | undefined (k : SlotNo) (g : Region) (found : s.region? k = some g) (life : g.life = .defined) :
      s.Begun (s.putRegion k none)
  | activated (matched : Bool) (k : SlotNo) (g : Region) (found : s.region? k = some g) (life : g.life = .defined)
      (apart : ¬ s.clashing k g.defn) (pool : g.defn.double.isSome = true → s.poolUsed + g.defn.size ≤ 16384) :
      s.Begun (s.putRegion k (some (g.activated matched)))
  | retired (k : SlotNo) (g : Region) (found : s.region? k = some g) (life : g.life = .active) : s.Begun (s.retireRegion k)
  | revived (k : SlotNo) (g : Region) (found : s.region? k = some g) (ok : g.revivable = true) :
      s.Begun (s.modRegion k Region.revived)
  | items (k : SlotNo) (f : Region → Region)
      (keeps : ∀ g, (f g).defn = g.defn ∧ (f g).life = g.life ∧ (f g).cycle = g.cycle) : s.Begun (s.modRegion k f)
  | policy (hold floor : Nat) (refuse : Bool) (mask : Kinds) : s.Begun (s.setPolicy hold floor refuse mask)
  | softReset : s.Begun s.beginSoftReset
  | hardReset (up : Bool) : s.Begun (s.hardReset up)

theorem State.acts_settle (s : State) : ReflTransGen State.Act s s.settle :=
  State.settle_keeps (P := ReflTransGen State.Act s) (fun _ _ h a => h.tail a) .refl

theorem Region.scrolled_keeps (g : Region) (v : Nat) :
    (g.scrolled v).defn = g.defn ∧ (g.scrolled v).life = g.life ∧ (g.scrolled v).cycle = g.cycle := by
  simp only [Region.scrolled]
  split <;> exact ⟨rfl, rfl, rfl⟩

/-- Every command begins with one of these, may give an answer, and acts follow. -/
theorem State.Does.begun (h : s.Does i t) : ∃ u reply, s.Begun u ∧ ReflTransGen State.Act { u with reply := reply } t := by
  have plain : s.Begun t → ∃ u reply, s.Begun u ∧ ReflTransGen State.Act { u with reply := reply } t := fun hb => ⟨t, t.reply, hb, .refl⟩
  have settles : ∀ u, s.Begun u → ∃ u' reply, s.Begun u' ∧ ReflTransGen State.Act { u' with reply := reply } u.settle := fun u hb =>
    ⟨u, u.reply, hb, u.acts_settle⟩
  have act : s.Act t → ∃ u reply, s.Begun u ∧ ReflTransGen State.Act { u with reply := reply } t := fun ha =>
    ⟨s, s.reply, .same, .single ha⟩
  have commits : ∀ u, s.Act u → ∃ u' reply, s.Begun u' ∧ ReflTransGen State.Act { u' with reply := reply } u.commitReady := fun u ha =>
    ⟨s, s.reply, .same, .tail (.single ha) .commit⟩
  cases h with
  | idle => exact plain .same
  | link _ reply free conds => exact ⟨_, reply, .linked free conds, .refl⟩
  | answered port req can => exact plain (.accepted port req can)
  | accepted port req can => exact settles _ (.accepted port req can)
  | taken port x rest front => exact settles _ (.taken port x rest front)
  | holdRelease => exact act s.act_holdRelease
  | advance => exact plain .aged
  | holdExpiry => exact plain .expired
  | grant => exact act s.act_grant
  | memoryTakes => exact settles _ .memoryTakes
  | mResponse status data o rest oldest => exact settles _ (.handed o rest _ oldest (State.handed _ o.owner status data))
  | copyTake => exact commits _ s.act_copyTake
  | replaySelect => exact commits _ s.act_replaySelect
  | replayIssue => exact commits _ s.act_replayIssue
  | sealedEntry k => exact plain (.sealEntered k)
  | drainEnd k => exact plain (.drainEnded k)
  | returnToDefined k => exact plain (.returned k)
  | sealLine line => exact plain (.seals _)
  | sealMask b mask => exact ⟨_, _, .seals fun n => mask.getLsbD n.val, .refl⟩
  | epoch source => exact settles _ (.epoch source)
  | define b p k slot free valid => exact ⟨_, _, .defined p k free valid, .refl⟩
  | undefine b k g slot found life => exact ⟨_, _, .undefined k g found life, .refl⟩
  | activate i matched k g row found life apart pool => exact ⟨_, _, .activated matched k g found life apart pool, State.acts_settle _⟩
  | retire b k g found life => exact ⟨_, _, .retired k g found life, State.acts_settle _⟩
  | revive b k g found ok => exact ⟨_, _, .revived k g found ok, State.acts_settle _⟩
  | scroll b v k => exact ⟨_, _, .items k (·.scrolled v.toNat) fun g => g.scrolled_keeps v.toNat, .refl⟩
  | setStep b v k => exact ⟨_, _, .items k (fun g => { g with rot := g.rot.map fun x => { x with step := v.toNat } }) fun g => ⟨rfl, rfl, rfl⟩, .refl⟩
  | clear b mask options k =>
    refine ⟨_, _, .items k (·.cleared mask (asksCounters options)) fun g => ?_, .refl⟩
    obtain ⟨defn, life, cycle, -⟩ := g.cleared_keeps mask (asksCounters options)
    exact ⟨defn, life, cycle⟩
  | policy b hold floor unmatched mask => exact ⟨_, _, .policy hold.toNat floor.toNat (unmatched == 0x01) mask, .refl⟩
  | softreset => exact ⟨_, _, .softReset, State.acts_settle _⟩
  | softResetEnd => exact act s.act_softResetEnd
  | hardReset i up => exact plain (.hardReset up)

/-- What the beginnings bring about, what does not look at the link's answer and what every act keeps stands after a command. -/
theorem State.Does.brings {P : State → Prop} (h : s.Does i t) (begun : ∀ u, s.Begun u → P u)
    (reply : ∀ u r, P u → P { u with reply := r }) (acts : ∀ u v, P u → u.Act v → P v) : P t := by
  obtain ⟨u, r, hu, chain⟩ := h.begun
  have start := reply u r (begun u hu)
  clear h
  induction chain with
  | refl => exact start
  | tail _ act ih => exact acts _ _ ih act

/-! ### No beginning makes a region SEALED that is not ready -/

theorem State.modRegion_eq_mapRegions (s : State) (k : SlotNo) (f : Region → Region) :
    s.modRegion k f = s.mapRegions fun j g => if j = k then f g else g := by
  have table : (s.modRegion k f).table = (s.mapRegions fun j g => if j = k then f g else g).table := by
    refine State.ext_region? _ fun j => ?_
    rw [State.region?_modRegion, State.region?_mapRegions]
    split
    · rename_i h
      rw [h]
    · exact Option.map_id'.symm
  exact congrArg (fun x => { s with table := x }) table

/-- A region is SEALED now only if it was, and nothing of its readiness is lost. -/
theorem State.sealedAt.of_cycle (h : s.sealedAt k) (hq : ∀ r ∈ t.queue, r ∈ s.queue)
    (hk : ∀ c', t.cycle? k = some c' → c'.pub = .isSealed →
      ∃ c, s.cycle? k = some c ∧ c.pub = .isSealed ∧ c'.gen = c.gen ∧ (c.stale = 0 → c'.stale = 0) ∧ (c.writers = 0 → c'.writers = 0)) :
    t.sealedAt k := by
  intro c' hc' hs
  obtain ⟨c, hc, hp, hgen, hstale, hw⟩ := hk c' hc' hs
  obtain ⟨stale, targets, writers⟩ := h c hc hp
  exact ⟨hstale stale, fun r hr hk => hgen ▸ targets r (hq r hr) hk, hw writers⟩

theorem State.sealedAt.modRegion (h : s.sealedAt k) (j : SlotNo) (f : Region → Region)
    (hf : ∀ g c', s.region? j = some g → (f g).cycle = some c' → c'.pub = .isSealed →
      (∃ c, g.cycle = some c ∧ c.pub = .isSealed ∧ c'.gen = c.gen ∧ c'.stale = c.stale ∧ c'.writers = c.writers) ∨
      c'.readyToSeal s.queue j = true) : (s.modRegion j f).sealedAt k := by
  rw [State.modRegion_eq_mapRegions]
  refine h.mapRegions _ fun g c' hg hc' hp => ?_
  split at hc'
  · rename_i e
    subst e
    exact hf g c' hg hc' hp
  · exact .inl ⟨c', hc', hp, rfl, rfl, rfl⟩

theorem State.sealedAt.sameCycles (h : s.sealedAt k) (hq : ∀ r ∈ t.queue, r ∈ s.queue) (hc : t.cycle? k = s.cycle? k) : t.sealedAt k :=
  h.of_cycle hq fun c' hc' hp => ⟨c', hc ▸ hc', hp, rfl, id, id⟩

theorem State.sealedAt.unsealed (h : ∀ c, s.cycle? k = some c → c.pub ≠ .isSealed) : s.sealedAt k := fun c hc hp => absurd hp (h c hc)

/-- A region that is not SEALED before and after a change is no concern. -/
theorem State.sealedAt.modCycle (h : s.sealedAt k) (j : SlotNo) (f : Cycle → Cycle)
    (hf : ∀ c, s.cycle? j = some c → (f c).pub = .isSealed → c.pub = .isSealed ∧ (f c).gen = c.gen ∧ (c.stale = 0 → (f c).stale = 0) ∧
      (c.writers = 0 → (f c).writers = 0)) : (s.modCycle j f).sealedAt k := by
  refine h.of_cycle (fun r hr => (s.modCycle_queue j f) ▸ hr) fun c' hc' hp => ?_
  rw [State.cycle?_modCycle] at hc'
  split at hc'
  · rename_i e
    subst e
    obtain ⟨c, hc, rfl⟩ := Option.map_eq_some_iff.1 hc'
    obtain ⟨hpub, hrest⟩ := hf c hc hp
    exact ⟨c, hc, hpub, hrest⟩
  · exact ⟨c', hc', hp, rfl, id, id⟩

theorem State.sealedAt.addTx (h : s.sealedAt k) (port : Port) (req : Request) (region : Option SlotNo) (bank : Option Bank)
    (phys : Option Nat) (state : TxState) (count : Option CountEntry) : (s.addTx port req region bank phys state count).sealedAt k :=
  h.of_same (s.addTx_table port req region bank phys state count) (by cases port <;> rfl)

theorem State.sealedAt.posted (h : s.sealedAt k) {j : SlotNo} (hg : s.region? j = some g) (hc : g.cycle = some c) (req : Request)
    (ht : t.table = s.table) (hq : t.queue = s.queue ++ [recordOf j g.defn c req]) : t.sealedAt k := by
  intro c' hc' hp
  rw [State.cycle?_of_table ht] at hc'
  obtain ⟨stale, targets, writers⟩ := h c' hc' hp
  refine ⟨stale, fun r hr hk => ?_, writers⟩
  rcases List.mem_append.1 (hq ▸ hr) with hr | hr
  · exact targets r hr hk
  · rw [List.mem_singleton.1 hr] at hk ⊢
    obtain rfl : j = k := hk
    obtain rfl : c = c' := by
      rw [State.cycle?_of_some hg, hc] at hc'
      exact Option.some.inj hc'
    show c.target ≠ _
    rw [Cycle.target_eq, targetNow, if_pos (.inr (.inl hp))]
    exact draftGen_ne c.gen

theorem State.sealedAt_accept {port : Port} {req : Request} {res : Resolution} (hr : s.Resolves port req res) (h : s.sealedAt k) :
    (s.accept port req res).sealedAt k := by
  have added := fun region bank phys state count => h.addTx port req region bank phys state count
  cases hr with
  | boundary => exact added _ _ _ _ _
  | unmatchedRefused => exact (added none none none (.done .refused []) none).of_same rfl rfl
  | passed => exact added _ _ _ _ _
  | refused j =>
    exact (added _ _ _ _ _).modRegion j _ fun g c' _ hc' hp => .inl ⟨c', hc', hp, rfl, rfl, rfl⟩
  | fenced => exact added _ _ _ _ _
  | single => exact added _ _ _ _ _
  | read j g c bank =>
    refine (added _ _ _ _ _).modCycle j _ fun d _ hp => ?_
    have alike := d.alike_enter bank
    exact ⟨alike.pub ▸ hp, alike.gen, fun h => by cases bank <;> exact h, alike.writers⟩
  | draftWrite j g c phys onP found life cycle pub =>
    refine State.sealedAt.modCycle (State.sealedAt.of_same (added _ _ _ _ _) rfl rfl) j _ fun d hd hp => ?_
    have same : d = c := by
      rw [State.cycle?_of_table (s := s) (s.addTx_table port req _ _ _ _ _), State.cycle?_of_some found, cycle] at hd
      exact (Option.some.inj hd).symm
    have keeps : ((d.setLine (g.defn.lineOf req.addr) .dirty).enter .writer).pub = d.pub := (d.alike_setLine _ _).pub
    rw [keeps, same, pub] at hp
    cases hp
  | holdWrite j g c reason onP found life cycle pub =>
    have entered := State.sealedAt.modCycle (added (some j) (some c.draft) none (s.newHold reason) (some .writer)) j (·.enter .writer)
      fun d hd hp => by
        have same : d = c := by
          rw [State.cycle?_of_table (s := s) (s.addTx_table port req _ _ _ _ _), State.cycle?_of_some found, cycle] at hd
          exact (Option.some.inj hd).symm
        have keeps : (d.enter .writer).pub = d.pub := rfl
        rw [keeps, same, pub] at hp
        cases hp
    simp only [State.accept]
    split
    · simp only [State.joinDemand]
      split
      · exact entered
      · exact entered.of_same rfl rfl
    · exact entered
  | holdQueue => exact added _ _ _ _ _
  | holdOverlap => exact added _ _ _ _ _
  | posted j g c onP found life cycle =>
    exact h.posted found cycle req (State.addTx_table _ port req _ _ _ _ _) (by cases port <;> rfl)

theorem State.leaveCount_cases (s : State) (x : Tx) :
    (s.leaveCount x = s ∧ ¬ ∃ k e, x.region = some k ∧ x.count = some e) ∨
    ∃ k e, x.region = some k ∧ x.count = some e ∧ s.leaveCount x = s.modCycle k (·.leave e) := by
  simp only [State.leaveCount]
  split
  · rename_i k e hk he
    exact .inr ⟨k, e, hk, he, rfl⟩
  · rename_i hnot
    exact .inl ⟨rfl, fun ⟨k, e, hk, he⟩ => hnot k e hk he⟩

/-- A count that is left changes no line and no publish state, and adds no writer. -/
theorem Cycle.alike_leave (c : Cycle) (e : CountEntry) : c.Alike (c.leave e) ∧ (c.leave e).stale = c.stale ∧ (c.leave e).lines = c.lines := by
  cases e with
  | reader b => cases b <;> exact ⟨⟨rfl, rfl, rfl, rfl, id⟩, rfl, rfl⟩
  | writer => exact ⟨⟨rfl, rfl, rfl, rfl, fun h => by simp [Cycle.leave, h]⟩, rfl, rfl⟩

theorem State.sealedAt.fence (h : s.sealedAt k) (j : SlotNo) : (s.fence j).sealedAt k := by
  refine h.of_cycle (fun r hr => ?_) fun c' hc' hp => ?_
  · rw [State.fence_queue] at hr
    exact (List.mem_filter.1 hr).1
  · rw [State.fence_cycle?] at hc'
    split at hc'
    · obtain ⟨c, -, rfl⟩ := Option.map_eq_some_iff.1 hc'
      cases hp
    · exact ⟨c', hc', hp, rfl, id, id⟩

theorem State.sealedAt.report (h : s.sealedAt k) (j : SlotNo) (third : Bool) : (s.reportError j third).sealedAt k := by
  have charged : ∀ g, s.region? j = some g → (s.putRegion j (some g.afterReport)).sealedAt k := fun g hg =>
    h.of_set rfl rfl fun c' hc' hp => ⟨c', by rw [State.cycle?_of_some hg, ← hc', g.afterReport_keeps.2.2.1], hp, rfl, id, id⟩
  rcases s.reportError_cases j third with ⟨-, e⟩ | ⟨g, hg, ⟨e, -⟩ | ⟨e, -⟩⟩ <;> rw [e]
  · exact h
  · exact charged g hg
  · exact (charged g hg).fence j

theorem State.portAnswered_table (s : State) (port : Port) (place : Nat) (status : MStatus) (data : List Word) :
    (s.portAnswered port place status data).table = s.table := s.setTracker_table port _

theorem State.portAnswered_queue (s : State) (port : Port) (place : Nat) (status : MStatus) (data : List Word) :
    (s.portAnswered port place status data).queue = s.queue := by
  cases port <;> rfl

/-- A SEALED region has no line in a slot, so no slot gives one back to it. -/
theorem State.sealedAt.givenBack (h : s.sealedAt k) {j : Fin 4} {y : Copy} (slot : s.slots[j] = .copying y) (l : LineState)
    (hc : (∀ c, s.cycle? k = some c → c.pub ≠ .isSealed) ∨ (s.counted ∧ s.copied)) :
    ((s.setSlot j .free).modCycle y.region (·.setLine y.line l)).sealedAt k := by
  refine h.of_cycle (fun r hr => hr) fun c' hc' hp => ?_
  rw [State.cycle?_modCycle, State.cycle?_of_table (s.setSlot_table j .free), State.cycle?_of_table (s.setSlot_table j .free)] at hc'
  split at hc'
  · rename_i e
    subst e
    obtain ⟨c, hcy, rfl⟩ := Option.map_eq_some_iff.1 hc'
    have hp : c.pub = .isSealed := (c.alike_setLine y.line l).pub ▸ hp
    rcases hc with hc | ⟨counted, copied⟩
    · exact absurd hp (hc c hcy)
    · have none := CopiesOn.on_sealed (hcy ▸ copied y.region) (counted y.region c hcy) hp j
      rw [slot, CopySlot.on_copying rfl] at none
      cases none
  · exact ⟨c', hc', hp, rfl, id, id⟩

theorem State.Handed.sealedAt {o : Owner} (h : s.Handed o t) (hs : s.sealedAt k)
    (hc : (∀ c, s.cycle? k = some c → c.pub ≠ .isSealed) ∨ (s.counted ∧ s.copied)) : t.sealedAt k := by
  have answered : ∀ port place status data, (s.portAnswered port place status data).sealedAt k := fun port place status data =>
    hs.of_same (s.portAnswered_table port place status data) (s.portAnswered_queue port place status data)
  have done : s.replayDone.sealedAt k := hs.sameCycles (fun r hr => (List.mem_filter.1 hr).1) rfl
  cases h with
  | gone => exact hs
  | answered port place status data => exact answered port place status data
  | unmatched port place status data => exact (answered port place status data).of_same rfl rfl
  | reported port place status data j => exact (answered port place status data).report j false
  | slotFree => exact hs
  | slotFinished => exact hs.of_same rfl rfl
  | slotEnded j y slot => exact hs.givenBack slot .stale hc
  | slotRead => exact hs.of_same rfl rfl
  | slotCopied j y slot => exact hs.givenBack slot .sync hc
  | slotRetries j y third => exact (hs.report y.region third).of_same rfl rfl
  | slotLost j y third => exact hs.report y.region third
  | replayFree => exact hs
  | replayDone => exact done
  | replayError j w => exact done.report j false

theorem State.holdExpiry_cases (s : State) : s.holdExpiry = s ∨ ∃ x, s.heldTx = some x ∧ x.expired = true ∧
    (s.holdExpiry = s.modHeld (fun t => { t with state := .done .timeout [] }) ∨
      ∃ k, x.region = some k ∧
        s.holdExpiry = (s.modHeld fun t => { t with state := .done .timeout [] }).modRegion k Region.countTimeout) := by
  simp only [State.holdExpiry]
  split
  · exact .inl rfl
  · rename_i x hx
    split
    · rename_i expired
      refine .inr ⟨x, hx, expired, ?_⟩
      split
      · rename_i k hk
        exact .inr ⟨k, hk, rfl⟩
      · exact .inl rfl
    · exact .inl rfl

theorem State.sealedAt.holdExpiry (h : s.sealedAt k) : s.holdExpiry.sealedAt k := by
  rcases s.holdExpiry_cases with e | ⟨x, -, -, e | ⟨j, -, e⟩⟩ <;> rw [e]
  · exact h
  · exact h.of_same rfl rfl
  · exact State.sealedAt.modRegion (h.of_same rfl rfl) j _ fun g c' _ hc' hp => .inl ⟨c', hc', hp, rfl, rfl, rfl⟩

theorem State.cycle?_retireRegion (s : State) (k j : SlotNo) : (s.retireRegion k).cycle? j = s.cycle? j := by
  rw [State.cycle?_of_table (s.retireRegion_table k), State.cycle?_modRegion]
  split
  · rename_i e
    rw [e, State.cycle?_eq]
    congr 1
    funext g
    exact (Region.recordDiscard_keeps _ _).2.2.1
  · rfl

theorem State.Begun.sealedAt (h : s.Begun t) (hs : s.sealedAt k)
    (hc : (∀ c, s.cycle? k = some c → c.pub ≠ .isSealed) ∨ (s.counted ∧ s.copied)) : t.sealedAt k := by
  cases h with
  | same => exact hs
  | linked => exact hs
  | accepted port req => exact State.sealedAt_accept (s.resolves port req) hs
  | taken port x rest =>
    have removed : (s.setTracker port rest).sealedAt k := hs.of_same (s.setTracker_table port rest) (by cases port <;> rfl)
    rcases (s.setTracker port rest).leaveCount_cases x with ⟨e, -⟩ | ⟨j, e', -, -, e⟩ <;> rw [e]
    · exact removed
    · refine removed.modCycle j _ fun c _ hp => ?_
      obtain ⟨alike, stale, -⟩ := c.alike_leave e'
      exact ⟨alike.pub ▸ hp, alike.gen, fun h => stale.trans h, alike.writers⟩
  | aged => exact State.sealedAt.holdExpiry (s := State.ageHold { s with timeBase := s.timeBase + 1 }) (hs.of_same rfl rfl)
  | expired => exact hs.holdExpiry
  | memoryTakes => exact hs.of_same rfl rfl
  | handed o rest t oldest hands => exact hands.sealedAt (s := { s with outstanding := rest }) (hs.of_same rfl rfl) hc
  | sealEntered j =>
    refine hs.modRegion j _ fun g c' _ hc' hp => ?_
    obtain ⟨c, hcy, ⟨rfl, -⟩ | ⟨-, -, ready, rfl⟩⟩ := Region.sealedEntry_cycle hc'
    · exact .inl ⟨_, hcy, hp, rfl, rfl, rfl⟩
    · exact .inr ready
  | drainEnded j =>
    refine hs.modRegion j _ fun g c' _ hc' hp => ?_
    obtain ⟨c, hcy, ⟨rfl, -⟩ | ⟨-, hd, -, rfl⟩⟩ := Region.drainEnd_cycle hc'
    · exact .inl ⟨_, hcy, hp, rfl, rfl, rfl⟩
    · have ready := Cycle.endDrain_sealed hp
      obtain ⟨pub, pending, e, -⟩ := c.endDrain_keeps s.queue j hd
      rw [e]
      exact .inr ready
  | returned j =>
    refine hs.modRegion j _ fun g c' _ hc' hp => ?_
    rcases g.returnIf_cases (s.nothingLeft j) with ⟨e, -⟩ | ⟨-, -, e⟩ <;> rw [e] at hc'
    · exact .inl ⟨c', hc', hp, rfl, rfl, rfl⟩
    · cases hc'
  | seals groups =>
    refine hs.mapRegions _ fun g c' _ hc' hp => ?_
    split at hc'
    · rw [Region.modCycle_cycle, Option.map_eq_some_iff] at hc'
      obtain ⟨c, hcy, rfl⟩ := hc'
      have sealed := Cycle.takeSeal_sealed hp
      obtain ⟨pub, pending, e, -⟩ := c.takeSeal_keeps s.queue k
      rw [e]
      rcases sealed with h | ready
      · exact .inl ⟨c, hcy, h, rfl, rfl, rfl⟩
      · exact .inr ready
    · exact .inl ⟨c', hc', hp, rfl, rfl, rfl⟩
  | epoch source =>
    refine hs.mapRegions _ fun g c' _ hc' hp => .inl ?_
    split at hc'
    · cases hcy : g.cycle with
      | none =>
        simp only [Region.epoch, hcy] at hc'
        rw [g.changeOffset_keeps.2.2.1, hcy] at hc'
        cases hc'
      | some c =>
        rw [Region.epoch_cycle hcy] at hc'
        split at hc' <;> cases hc'
        · exact absurd hp c.publish_not_sealed
        · exact ⟨c', rfl, hp, rfl, rfl, rfl⟩
    · exact ⟨c', hc', hp, rfl, rfl, rfl⟩
  | defined p j => exact hs.of_set (g' := newRegion (definitionOf p)) rfl rfl nofun
  | undefined j g found life =>
    refine hs.of_cycle (fun r hr => hr) fun c' hc' hp => ?_
    rw [State.cycle?_eq, State.region?_putRegion] at hc'
    split at hc'
    · cases hc'
    · exact ⟨c', hc', hp, rfl, id, id⟩
  | activated matched j g =>
    refine hs.of_set (g' := g.activated matched) rfl rfl fun c' hc' hp => ?_
    obtain ⟨d, -, rfl⟩ := Option.map_eq_some_iff.1 hc'
    cases hp
  | retired j g =>
    refine hs.sameCycles (fun r hr => ?_) ?_
    · exact (List.mem_filter.1 (show r ∈ s.queue.filter fun r => r.region != j from hr)).1
    · exact s.cycle?_retireRegion j k
  | revived j g found ok =>
    refine hs.modRegion j _ fun g c' _ hc' hp => ?_
    rw [Region.revived_cycle] at hc'
    obtain ⟨c, -, rfl⟩ := Option.map_eq_some_iff.1 hc'
    simp only at hp
    split at hp <;> cases hp
  | items j f keeps => exact hs.modRegion j f fun g c' _ hc' hp => .inl ⟨c', by rw [← hc', (keeps g).2.2], hp, rfl, rfl, rfl⟩
  | policy => exact hs.of_same rfl rfl
  | softReset =>
    refine .unsealed fun c hcy => ?_
    rw [State.cycle?_beginSoftReset] at hcy
    cases hcy
  | hardReset up =>
    refine .unsealed fun c hcy => ?_
    rw [State.cycle?_eq, State.hardReset_region?] at hcy
    cases hcy

theorem State.Does.sealedAt (h : s.Does i t) (hs : s.sealedAt k)
    (hc : (∀ c, s.cycle? k = some c → c.pub ≠ .isSealed) ∨ (s.counted ∧ s.copied)) : t.sealedAt k :=
  h.brings (fun _ hu => hu.sealedAt hs hc) (fun _ _ h => h) fun _ _ h a => a.sealedAt h

end Sys2Proof.Machine
end

section
/-! PROOFS. A held transaction stays one of an ACTIVE region that is not HALTED; every beginning and every act keeps records, entries and
replay unit in order. Settles O55. -/

namespace Sys2Proof.Machine

variable {s t u : State} {i : Instr} {k : SlotNo} {g g' : Region} {c c' : Cycle}

/-! ### A held transaction's region -/

/-- An ACTIVE region that is not HALTED stays so. -/
def State.RunsAt (s t : State) (k : SlotNo) : Prop := ∀ c, s.core k = some (.active, some c) → c.pub ≠ .halted →
  ∃ c', t.core k = some (.active, some c') ∧ c'.pub ≠ .halted

theorem State.RunsAt.of_core (h : t.core k = s.core k) : s.RunsAt t k := fun c hc hp => ⟨c, h ▸ hc, hp⟩

theorem State.RunsAt.of_set {j : SlotNo} (ht : t.table = s.table.set j (some g'))
    (hj : ∀ c, s.core j = some (.active, some c) → c.pub ≠ .halted → g'.life = .active ∧ ∃ c', g'.cycle = some c' ∧ c'.pub ≠ .halted) :
    s.RunsAt t k := fun c hc hp => by
  rw [State.core_of_set ht]
  split
  · rename_i e
    obtain ⟨hl, c', hc', hp'⟩ := hj c (e ▸ hc) hp
    exact ⟨c', by rw [hl, hc'], hp'⟩
  · exact ⟨c, hc, hp⟩

theorem State.RunsAt.mapRegions (f : SlotNo → Region → Region)
    (hf : ∀ g c, s.region? k = some g → g.life = .active → g.cycle = some c → c.pub ≠ .halted →
      (f k g).life = .active ∧ ∃ c', (f k g).cycle = some c' ∧ c'.pub ≠ .halted) : s.RunsAt (s.mapRegions f) k := fun c hc hp => by
  obtain ⟨g, hg, hl, hgc⟩ := State.core_eq_some.1 hc
  obtain ⟨hl', c', hc', hp'⟩ := hf g c hg hl hgc hp
  exact ⟨c', by rw [State.core_mapRegions, hg, Option.map_some, hl', hc'], hp'⟩

/-- Held transactions may be answered; one that stays held keeps its region, its count and its reason, and its region runs on. -/
theorem State.heldFits.of_runs (h : s.heldFits)
    (ht : ∀ x ∈ t.pTracker, ∀ reason, x.heldFor = some reason → ∃ y ∈ s.pTracker, y.heldFor = some reason ∧ y.region = x.region ∧
      y.count = x.count ∧ ∀ k, x.region = some k → s.RunsAt t k) : t.heldFits := fun x hx reason hr => by
  obtain ⟨y, hy, hyr, hk, hcount, hruns⟩ := ht x hx reason hr
  obtain ⟨k, c, hyk, hcore, hp, hw⟩ := h y hy reason hyr
  obtain ⟨c', hcore', hp'⟩ := hruns k (hk ▸ hyk) c hcore hp
  exact ⟨k, c', hk ▸ hyk, hcore', hp', fun hreason => hcount ▸ hw hreason⟩

/-- The tracker's held transactions are those of before. -/
theorem State.heldFits.of_tracker (h : s.heldFits) (ht : ∀ x ∈ t.pTracker, x.heldFor ≠ none → x ∈ s.pTracker)
    (hr : ∀ k, s.RunsAt t k) : t.heldFits :=
  h.of_runs fun x hx reason hreason => ⟨x, ht x hx (by rw [hreason]; nofun), hreason, rfl, rfl, fun k _ => hr k⟩

theorem State.heldFits.of_same (h : s.heldFits) (ht : t.table = s.table) (hp : t.pTracker = s.pTracker) : t.heldFits :=
  h.of_tracker (fun _ hx _ => hp ▸ hx) fun _ => .of_core (State.core_of_table ht _)

/-- Transactions are answered, issued or taken up; none is held anew. -/
theorem heldFor_of_map {l : List Tx} {f : Tx → Tx} (hf : ∀ x, (f x).heldFor = none ∨ f x = x) {y : Tx} (hy : y ∈ l.map f)
    (held : y.heldFor ≠ none) : y ∈ l := by
  obtain ⟨x, hx, rfl⟩ := List.mem_map.1 hy
  rcases hf x with h | h
  · exact absurd h held
  · exact h.symm ▸ hx

theorem State.heldFits.modHeld (h : s.heldFits) {f : Tx → Tx} (hf : ∀ x, (f x).heldFor = none) (ht : t.pTracker = (s.modHeld f).pTracker)
    (hr : ∀ k, s.RunsAt t k) : t.heldFits := by
  refine h.of_tracker (fun x hx held => ?_) hr
  rw [ht, State.modHeld_pTracker] at hx
  refine heldFor_of_map (fun x => ?_) hx held
  split
  · exact .inl (hf x)
  · exact .inr rfl

theorem Region.controllers_run {queue : List QRecord} (hl : g.life = .active) (hc : g.cycle = some c) (hp : c.pub ≠ .halted) :
    ((g.drainEnd queue k).life = .active ∧ ∃ c', (g.drainEnd queue k).cycle = some c' ∧ c'.pub ≠ .halted) ∧
    (g.sealedEntry queue k).life = .active ∧ ∃ c', (g.sealedEntry queue k).cycle = some c' ∧ c'.pub ≠ .halted := by
  rw [Region.drainEnd_of_active hl hc, Region.sealedEntry_of_active hl hc]
  refine ⟨⟨hl, _, rfl, ?_⟩, hl, _, rfl, ?_⟩
  · split
    · rename_i hd
      obtain ⟨pub, pending, e, moves⟩ := c.endDrain_keeps queue k hd.1
      rw [e]
      exact fun h => hp (moves.halts.1 h)
    · exact hp
  · split
    · exact nofun
    · exact hp

theorem Region.returnIf_of_active (hl : g.life = .active) (b : Bool) : g.returnIf b = g := by
  rcases g.returnIf_cases b with ⟨e, -⟩ | ⟨hr, -⟩
  · exact e
  · rw [hl] at hr
    cases hr

theorem State.RunsAt.withCycle {j : SlotNo} (hg : s.region? j = some g) (hc : g.cycle = some c) (ht : t.table = s.table.set j (some (g.withCycle c')))
    (hp : c.pub ≠ .halted → c'.pub ≠ .halted) : s.RunsAt t k := by
  refine .of_set ht fun d hd hdp => ?_
  rw [State.core_of_some hg, hc] at hd
  obtain ⟨hl, hd⟩ := Prod.mk.inj (Option.some.inj hd)
  cases hd
  exact ⟨hl, c', rfl, hp hdp⟩

theorem State.Decides.runs {r : QRecord} (h : s.Decides r g c t) (hg : s.region? r.region = some g) (hc : g.cycle = some c) :
    t.pTracker = s.pTracker ∧ s.RunsAt t k := by
  cases h with
  | issue => exact ⟨rfl, .withCycle hg hc rfl fun h => (c.alike_setLine _ _).pub ▸ h⟩
  | copying => exact ⟨rfl, .of_core rfl⟩
  | demand => exact ⟨rfl, .of_core rfl⟩
  | read => exact ⟨rfl, .of_core rfl⟩

theorem State.Act.heldFits (h : s.Act t) (hs : s.heldFits) : t.heldFits := by
  cases h with
  | same => exact hs
  | controllers =>
    refine hs.of_tracker (fun x hx _ => hx) fun k => .mapRegions _ fun g c _ hl hc hp => ?_
    obtain ⟨hl', c', hc', hp'⟩ := (Region.controllers_run (queue := s.queue) (k := k) hl hc hp).1
    exact (Region.controllers_run (queue := s.queue) (k := k) hl' hc' hp').2
  | releaseWrite x k g c reason age limit held region state found cycle =>
    exact hs.modHeld (fun _ => rfl) rfl fun j => .withCycle found cycle rfl fun h => (c.alike_setLine _ _).pub ▸ h
  | releasePost => exact hs.modHeld (f := fun t => { t with state := .done .okay [] }) (fun _ => rfl) rfl fun _ => .of_core rfl
  | releaseRead x k g c age limit bank held region state found cycle =>
    exact hs.modHeld (fun _ => rfl) rfl fun j => .withCycle found cycle rfl fun h => (c.alike_enter bank).pub ▸ h
  | select r g c t first idle found cycle decides =>
    refine hs.of_tracker (fun x hx _ => ?_) fun j => (decides.runs found cycle).2
    rwa [(State.Decides.runs (k := 0) decides found cycle).1] at hx
  | issue r g c w t mem selected waits found cycle decides =>
    refine hs.of_tracker (fun x hx _ => ?_) fun j => (decides.runs found cycle).2
    rwa [(State.Decides.runs (k := 0) decides found cycle).1] at hx
  | take j k line ptr g c free work found life cycle =>
    exact hs.of_tracker (fun x hx _ => hx) fun i => .withCycle found cycle rfl id
  | present => exact hs.of_same rfl rfl
  | grantTx port x =>
    cases port with
    | s => exact hs.of_same rfl rfl
    | p =>
      refine hs.of_tracker (fun y hy held => heldFor_of_map (fun u => ?_) hy held) fun _ => .of_core rfl
      split
      · exact .inl rfl
      · exact .inr rfl
  | grantEngine => exact hs.of_same rfl rfl
  | grantNothing => exact hs.of_same rfl rfl
  | returns =>
    refine hs.of_tracker (fun x hx _ => hx) fun k => .mapRegions _ fun g c _ hl hc hp => ?_
    rw [Region.returnIf_of_active hl]
    exact ⟨hl, c, hc, hp⟩
  | endReset => exact hs.of_same rfl rfl
  | commit => exact hs.of_same rfl rfl

/-! ### The beginnings -/

theorem State.RunsAt.of_table (h : s.RunsAt u k) (ht : t.table = u.table) : s.RunsAt t k := fun c hc hp => by
  rw [State.core_of_table ht]
  exact h c hc hp

theorem State.RunsAt.modRegion (j : SlotNo) (f : Region → Region)
    (hf : ∀ g c, s.region? j = some g → g.life = .active → g.cycle = some c → c.pub ≠ .halted →
      (f g).life = .active ∧ ∃ c', (f g).cycle = some c' ∧ c'.pub ≠ .halted) : s.RunsAt (s.modRegion j f) k := by
  rw [State.modRegion_eq_mapRegions]
  refine .mapRegions _ fun g c hg hl hc hp => ?_
  split
  · rename_i e
    exact hf g c (e ▸ hg) hl hc hp
  · exact ⟨hl, c, hc, hp⟩

theorem State.RunsAt.modCycle (j : SlotNo) (f : Cycle → Cycle) (hf : ∀ c, (f c).pub = c.pub) : s.RunsAt (s.modCycle j f) k := by
  refine .modRegion j _ fun g c _ hl hc hp => ⟨hl, f c, ?_, hf c ▸ hp⟩
  rw [Region.modCycle_cycle, hc, Option.map_some]

/-- A transaction joins a tracker; if it is held, it is of an ACTIVE region that is not HALTED. -/
theorem State.heldFits.joined {port : Port} {x : Tx} (h : s.heldFits) (hp : t.pTracker = if port = .p then s.pTracker ++ [x] else s.pTracker)
    (runs : ∀ k, s.RunsAt t k)
    (hx : ∀ reason, x.heldFor = some reason → ∃ k c, x.region = some k ∧ t.core k = some (.active, some c) ∧ c.pub ≠ .halted ∧
      (reason = .demand ∨ reason = .copying → x.count = some .writer)) : t.heldFits := by
  have old : ∀ y ∈ s.pTracker, ∀ reason, y.heldFor = some reason → ∃ k c, y.region = some k ∧ t.core k = some (.active, some c) ∧
      c.pub ≠ .halted ∧ (reason = .demand ∨ reason = .copying → y.count = some .writer) := fun y hy reason hr => by
    obtain ⟨k, c, hk, hcore, hpub, hw⟩ := h y hy reason hr
    obtain ⟨c', hcore', hpub'⟩ := runs k c hcore hpub
    exact ⟨k, c', hk, hcore', hpub', hw⟩
  intro y hy
  rw [hp] at hy
  split at hy
  · rcases List.mem_append.1 hy with hy | hy
    · exact old y hy
    · rw [List.mem_singleton.1 hy]
      exact hx
  · exact old y hy

theorem State.joinDemand_pTracker (s : State) (who : Requester) (k : SlotNo) (line : Nat) :
    (s.joinDemand who k line).pTracker = s.pTracker := by
  simp only [State.joinDemand]
  split <;> rfl

theorem State.heldFits_accept {port : Port} {req : Request} {res : Resolution} (hr : s.Resolves port req res) (h : s.heldFits) :
    (s.accept port req res).heldFits := by
  have joins := fun region bank phys state count => (s.joins_addTx port req region bank phys state count).1
  have table := fun region bank phys state count => s.addTx_table port req region bank phys state count
  have stays : ∀ region bank phys state count j, s.RunsAt (s.addTx port req region bank phys state count) j :=
    fun region bank phys state count j => .of_core (State.core_of_table (table region bank phys state count) j)
  have enters : ∀ region bank phys state count k (f : Cycle → Cycle) j, (∀ c, (f c).pub = c.pub) →
      s.RunsAt ((s.addTx port req region bank phys state count).modCycle k f) j := fun region bank phys state count k f j hf =>
    .of_table (.modCycle k f hf) (by cases port <;> rfl)
  cases hr with
  | boundary => exact h.joined (joins _ _ _ _ _) (stays _ _ _ _ _) nofun
  | unmatchedRefused => exact h.joined (joins none none none (.done .refused []) none) (stays none none none (.done .refused []) none) nofun
  | passed => exact h.joined (joins _ _ _ _ _) (stays _ _ _ _ _) nofun
  | refused k =>
    exact h.joined (joins (some k) none none (.done .refused []) none)
      (fun j => .of_table (u := s.modRegion k Region.countRefused) (.modRegion k _ fun g c _ hl hc hp => ⟨hl, c, hc, hp⟩) (by cases port <;> rfl)) nofun
  | fenced => exact h.joined (joins _ _ _ _ _) (stays _ _ _ _ _) nofun
  | single => exact h.joined (joins _ _ _ _ _) (stays _ _ _ _ _) nofun
  | read k g c bank phys =>
    exact h.joined (joins (some k) (some bank) (some phys) .accepted (some (.reader bank)))
      (fun j => enters _ _ _ _ _ k (·.enter (.reader bank)) j fun c => (c.alike_enter bank).pub) nofun
  | draftWrite k g c phys =>
    refine h.joined (joins (some k) (some c.draft) (some phys) .accepted (some .writer)) (fun j => ?_) nofun
    exact .of_table (enters (some k) (some c.draft) (some phys) .accepted (some .writer) k
      (fun c => (c.setLine (g.defn.lineOf req.addr) .dirty).enter .writer) j fun c => (c.alike_setLine _ _).pub) rfl
  | holdWrite k g c reason onP found life cycle pub =>
    have run := fun j => enters (some k) (some c.draft) none (s.newHold reason) (some .writer) k (·.enter .writer) j fun c => rfl
    have entered : ((s.addTx port req (some k) (some c.draft) none (s.newHold reason) (some .writer)).modCycle k (·.enter .writer)).heldFits := by
      refine h.joined (joins (some k) (some c.draft) none (s.newHold reason) (some .writer)) run fun reason' _ => ?_
      obtain ⟨c', hcore, hp⟩ := run k c (by rw [State.core_of_some found, life, cycle]) (by simp [pub])
      exact ⟨k, c', rfl, hcore, hp, fun _ => rfl⟩
    simp only [State.accept]
    split
    · exact entered.of_same (State.joinDemand_table _ _ _ _) (State.joinDemand_pTracker _ _ _ _)
    · exact entered
  | holdQueue k g c onP found life cycle pub =>
    have core : s.core k = some (.active, some c) := by rw [State.core_of_some found, life, cycle]
    refine h.joined (joins (some k) none none (s.newHold .queue) none) (stays _ _ _ _ _) fun reason hreason => ?_
    obtain ⟨age, limit, hst⟩ := (Tx.heldFor_eq_some_iff _ reason).1 hreason
    cases hst
    exact ⟨k, c, rfl, (State.core_of_table (table _ _ _ _ _) k).trans core, pub, by simp⟩
  | holdOverlap k g c onP found life cycle pub =>
    have core : s.core k = some (.active, some c) := by rw [State.core_of_some found, life, cycle]
    refine h.joined (joins (some k) none none (s.newHold .overlap) none) (stays _ _ _ _ _) fun reason hreason => ?_
    obtain ⟨age, limit, hst⟩ := (Tx.heldFor_eq_some_iff _ reason).1 hreason
    cases hst
    exact ⟨k, c, rfl, (State.core_of_table (table _ _ _ _ _) k).trans core, pub, by simp⟩
  | posted k g c =>
    exact h.joined (State.joins_addTx _ port req (some k) none none (.done .okay []) none).1
      (fun j => .of_core (State.core_of_table (State.addTx_table _ port req _ _ _ _ _) j)) nofun

/-- Transactions of region `k` are answered; the others' regions run on. -/
theorem State.heldFits.answered (h : s.heldFits) (k : SlotNo)
    (ht : ∀ x ∈ t.pTracker, x.heldFor ≠ none → x ∈ s.pTracker ∧ x.region ≠ some k) (runs : ∀ j, j ≠ k → s.RunsAt t j) : t.heldFits :=
  h.of_runs fun x hx reason hreason => by
    obtain ⟨hmem, hk⟩ := ht x hx (by rw [hreason]; nofun)
    exact ⟨x, hmem, hreason, rfl, rfl, fun j hj => runs j fun e => hk (e ▸ hj)⟩

theorem mem_of_answered {l : List Tx} {status : Status} {x : Tx}
    (hx : x ∈ l.map fun t => if t.isHeld && t.region == some k then { t with state := .done status [] } else t) (held : x.heldFor ≠ none) :
    x ∈ l ∧ x.region ≠ some k := by
  obtain ⟨y, hy, rfl⟩ := List.mem_map.1 hx
  split at held
  · exact absurd rfl held
  · rename_i hnot
    rw [if_neg hnot]
    refine ⟨hy, fun hk => hnot ?_⟩
    rw [(Tx.isHeld_iff y).2 held, hk, Bool.true_and, beq_self_eq_true]

theorem State.core_fence (s : State) (k j : SlotNo) (h : j ≠ k) : (s.fence k).core j = s.core j := by
  rw [State.core, State.fence_region?, if_neg h, State.core]

theorem State.heldFits.fence (h : s.heldFits) (k : SlotNo) : (s.fence k).heldFits :=
  h.answered k (fun x hx held => mem_of_answered (s.fence_pTracker k ▸ hx) held) fun j hj => .of_core (s.core_fence k j hj)

theorem State.heldFits.report (h : s.heldFits) (k : SlotNo) (third : Bool) : (s.reportError k third).heldFits := by
  have charged : ∀ g, s.region? k = some g → (s.putRegion k (some g.afterReport)).heldFits := fun g hg =>
    h.of_tracker (fun x hx _ => hx) fun j => .of_core <| by
      obtain ⟨life, -, cycle, -⟩ := g.afterReport_keeps
      rw [State.core_of_set (s := s) rfl, life, cycle]
      split
      · rename_i e
        rw [e, State.core_of_some hg]
      · rfl
  rcases s.reportError_cases k third with ⟨-, e⟩ | ⟨g, hg, ⟨e, -⟩ | ⟨e, -⟩⟩ <;> rw [e]
  · exact h
  · exact charged g hg
  · exact (charged g hg).fence k

theorem State.heldFits.portAnswered (h : s.heldFits) (port : Port) (place : Nat) (status : MStatus) (data : List Word) :
    (s.portAnswered port place status data).heldFits := by
  refine h.of_tracker (fun x hx held => ?_) fun j => .of_core (State.core_of_table (s.portAnswered_table port place status data) j)
  cases port with
  | s => exact hx
  | p =>
    refine heldFor_of_map (fun y => ?_) hx held
    split
    · exact .inl rfl
    · exact .inr rfl

theorem State.heldFits.givenBack (h : s.heldFits) (j : Fin 4) (y : Copy) (l : LineState) :
    ((s.setSlot j .free).modCycle y.region (·.setLine y.line l)).heldFits :=
  h.of_tracker (fun x hx _ => hx) fun i => .of_table (u := s.modCycle y.region (·.setLine y.line l))
    (.modCycle _ _ fun c => (c.alike_setLine y.line l).pub) rfl

theorem State.Handed.heldFits {o : Owner} (h : s.Handed o t) (hs : s.heldFits) : t.heldFits := by
  cases h with
  | gone => exact hs
  | answered port place status data => exact hs.portAnswered port place status data
  | unmatched port place status data => exact (hs.portAnswered port place status data).of_same rfl rfl
  | reported port place status data j => exact (hs.portAnswered port place status data).report j false
  | slotFree => exact hs
  | slotFinished => exact hs.of_same rfl rfl
  | slotEnded j y => exact hs.givenBack j y .stale
  | slotRead => exact hs.of_same rfl rfl
  | slotCopied j y => exact hs.givenBack j y .sync
  | slotRetries j y third => exact (hs.report y.region third).of_same rfl rfl
  | slotLost j y third => exact hs.report y.region third
  | replayFree => exact hs
  | replayDone => exact hs.of_same rfl rfl
  | replayError j w => exact State.heldFits.report (s := s.replayDone) (hs.of_same rfl rfl) j false

theorem State.heldFits.holdExpiry (h : s.heldFits) : s.holdExpiry.heldFits := by
  rcases s.holdExpiry_cases with e | ⟨x, -, -, e | ⟨j, -, e⟩⟩ <;> rw [e]
  · exact h
  · exact h.modHeld (f := fun t => { t with state := .done .timeout [] }) (fun _ => rfl) rfl fun _ => .of_core rfl
  · refine h.modHeld (f := fun t => { t with state := .done .timeout [] }) (fun _ => rfl) rfl fun _ => ?_
    exact .of_table (u := s.modRegion j Region.countTimeout) (.modRegion j _ fun g c _ hl hc hp => ⟨hl, c, hc, hp⟩) rfl

theorem State.heldFits.aged (h : s.heldFits) : s.ageHold.heldFits := by
  refine h.of_runs fun x hx reason hreason => ?_
  rw [State.ageHold, State.modHeld_pTracker, List.mem_map] at hx
  obtain ⟨y, hy, rfl⟩ := hx
  have stays : ∀ k, s.RunsAt s.ageHold k := fun k => .of_core rfl
  split at hreason
  · cases hst : y.state with
    | held r age limit =>
      simp only [hst] at hreason ⊢
      refine ⟨y, hy, ?_, ?_, ?_, fun k _ => stays k⟩
      · rw [← hreason, Tx.heldFor, Tx.heldFor, hst]
      · split <;> rfl
      · split <;> rfl
    | accepted => simp [hst, Tx.heldFor] at hreason
    | issued => simp [hst, Tx.heldFor] at hreason
    | done => simp [hst, Tx.heldFor] at hreason
  · rename_i hnot
    rw [if_neg hnot]
    exact ⟨y, hy, hreason, rfl, rfl, fun k _ => stays k⟩

theorem Region.epoch_life (g : Region) : g.epoch.life = g.life := by
  simp only [Region.epoch]
  split
  · exact g.changeOffset_keeps.2.1
  · split
    · exact ((Region.withScore_keeps _ _).2.1).trans ((Region.changeOffset_keeps _).2.1)
    all_goals rfl

theorem State.RunsAt.epoch (s : State) (source : Source) : s.RunsAt (s.epoch source) k := by
  refine .mapRegions _ fun g c _ hl hc hp => ?_
  split
  · refine ⟨?_, _, Region.epoch_cycle hc, ?_⟩
    · exact g.epoch_life.trans hl
    · split
      · simp only [Cycle.publish]
        split <;> decide
      · exact hp
  · exact ⟨hl, c, hc, hp⟩

theorem State.Begun.heldFits (h : s.Begun t) (hs : s.heldFits) : t.heldFits := by
  cases h with
  | same => exact hs
  | linked => exact hs.of_same rfl rfl
  | accepted port req => exact State.heldFits_accept (s.resolves port req) hs
  | taken port x rest front =>
    have removed : (s.setTracker port rest).heldFits := hs.of_tracker (fun y hy _ => by
      cases port with
      | p => exact (show s.pTracker = x :: rest from front) ▸ List.mem_cons_of_mem x hy
      | s => exact hy) fun j => .of_core (State.core_of_table (s.setTracker_table port rest) j)
    rcases (s.setTracker port rest).leaveCount_cases x with ⟨e, -⟩ | ⟨j, e', -, -, e⟩ <;> rw [e]
    · exact removed
    · exact removed.of_tracker (fun y hy _ => hy) fun i => .modCycle j _ fun c => (c.alike_leave e').1.pub
  | aged => exact State.heldFits.holdExpiry (State.heldFits.aged (s := { s with timeBase := s.timeBase + 1 }) (hs.of_same rfl rfl))
  | expired => exact hs.holdExpiry
  | memoryTakes => exact hs.of_same rfl rfl
  | handed o rest t oldest hands => exact hands.heldFits (s := { s with outstanding := rest }) (hs.of_same rfl rfl)
  | sealEntered j =>
    exact hs.of_tracker (fun x hx _ => hx) fun i => .modRegion j _ fun g c _ hl hc hpub => (Region.controllers_run hl hc hpub).2
  | drainEnded j =>
    exact hs.of_tracker (fun x hx _ => hx) fun i => .modRegion j _ fun g c _ hl hc hpub => (Region.controllers_run hl hc hpub).1
  | returned j =>
    refine hs.of_tracker (fun x hx _ => hx) fun i => .modRegion j _ fun g c _ hl hc hpub => ?_
    rw [Region.returnIf_of_active hl]
    exact ⟨hl, c, hc, hpub⟩
  | seals groups =>
    refine hs.of_tracker (fun x hx _ => hx) fun i => .mapRegions _ fun g c _ hl hc hpub => ?_
    split
    · obtain ⟨pub, pending, e, moves⟩ := c.takeSeal_keeps s.queue i
      refine ⟨hl, c.takeSeal s.queue i, by rw [Region.modCycle_cycle, hc, Option.map_some], ?_⟩
      rw [e]
      exact fun h => hpub (moves.halts.1 h)
    · exact ⟨hl, c, hc, hpub⟩
  | epoch source => exact hs.of_tracker (fun x hx _ => hx) fun i => .epoch s source
  | defined p j free =>
    refine hs.of_tracker (fun x hx _ => hx) fun i => .of_set (g' := newRegion (definitionOf p)) rfl fun c hc => ?_
    rw [State.core, free] at hc
    cases hc
  | undefined j g found life =>
    refine hs.of_tracker (fun x hx _ => hx) fun i c hc hpub => ⟨c, ?_, hpub⟩
    rw [State.core, State.region?_putRegion]
    split
    · rename_i e
      rw [e, State.core_of_some found, life] at hc
      cases hc
    · exact hc
  | activated matched j g found life =>
    refine hs.of_tracker (fun x hx _ => hx) fun i => .of_set (g' := g.activated matched) rfl fun c hc => ?_
    rw [State.core_of_some found, life] at hc
    cases hc
  | retired j g =>
    refine hs.answered j (fun x hx held => mem_of_answered hx held) fun i hi => .of_core ?_
    rw [State.core_of_table (s.retireRegion_table j), State.core, State.region?_modRegion, if_neg hi, State.core]
  | revived j g found ok =>
    obtain ⟨-, -, c, hc, halted⟩ := g.revivable_iff.1 ok
    refine hs.of_tracker (fun x hx _ => hx) fun i => .modRegion j _ fun g' d hg' hl hd hpub => ?_
    rw [found] at hg'
    cases hg'
    rw [hc] at hd
    cases hd
    exact absurd halted hpub
  | items j f keeps =>
    refine hs.of_tracker (fun x hx _ => hx) fun i => .modRegion j f fun g c _ hl hc hpub => ?_
    obtain ⟨-, life, cycle⟩ := keeps g
    exact ⟨life.trans hl, c, cycle.trans hc, hpub⟩
  | policy => exact hs.of_same rfl rfl
  | softReset =>
    intro x hx reason hreason
    obtain ⟨y, -, rfl⟩ := List.mem_map.1 (show x ∈ s.pTracker.map Tx.answeredReset from hx)
    cases hreason
  | hardReset up => exact fun x hx => nomatch hx

end Sys2Proof.Machine
end

section
/-! PROOFS. Every beginning keeps records, entries and replay unit in order. Settles O55. -/

namespace Sys2Proof.Machine

variable {s t u : State} {i : Instr} {k : SlotNo} {g g' : Region} {c c' : Cycle} {recs recs' : List QRecord}
  {ents ents' : List DemandEntry}

/-! ### Ways to keep order -/

theorem State.Orderly.of_cores (h : s.Orderly) (hc : ∀ k, t.core k = s.core k) (hq : t.queue = s.queue) (hr : t.replay = s.replay)
    (hd : t.demand = s.demand) : t.Orderly := by
  refine ⟨fun k c hcy => h.counted k c ?_, fun k => ?_, h.paired.of_same hq hr hd⟩
  · rwa [State.cycle?_eq_core, hc, ← State.cycle?_eq_core] at hcy
  · rw [hc, hq, hd]
    exact h.fitted k

theorem State.Orderly.modRegion (h : s.Orderly) (k : SlotNo) (f : Region → Region)
    (hc : ∀ g, s.region? k = some g → (∀ c, g.cycle = some c → c.counted) → ∀ c, (f g).cycle = some c → c.counted)
    (hf : ∀ g, s.region? k = some g → (∀ c, g.cycle = some c → c.counted) →
      FitsAt (some (g.life, g.cycle)) (recsOf s.queue k) (entsOf s.demand k) →
      FitsAt (some ((f g).life, (f g).cycle)) (recsOf s.queue k) (entsOf s.demand k)) : (s.modRegion k f).Orderly := by
  rw [State.modRegion_eq_mapRegions]
  refine h.mapRegions _ (fun j g hg counted => ?_) fun j g hg counted fits => ?_
  · split
    · rename_i e
      exact hc g (e ▸ hg) counted
    · exact counted
  · split
    · rename_i e
      subst e
      exact hf g hg counted fits
    · exact fits

theorem State.Orderly.modCycle (h : s.Orderly) (k : SlotNo) (f : Cycle → Cycle)
    (hf : ∀ c, s.cycle? k = some c → (c.counted → (f c).counted) ∧
      (Fit c (recsOf s.queue k) (entsOf s.demand k) → Fit (f c) (recsOf s.queue k) (entsOf s.demand k))) : (s.modCycle k f).Orderly := by
  cases hg : s.region? k with
  | none => rwa [State.modCycle, s.modRegion_of_none k _ hg]
  | some g =>
    cases hc : g.cycle with
    | none => rwa [State.modCycle, s.modRegion_fixed k _ fun g' hg' => by
        rw [hg] at hg'
        cases hg'
        exact Region.modCycle_of_none hc f]
    | some c =>
      obtain ⟨counted, fit⟩ := hf c (State.cycle?_eq_some.2 ⟨g, hg, hc⟩)
      rw [s.modCycle_of_some k f g c hg hc]
      exact h.withCycle hg hc rfl rfl rfl rfl counted fit

/-- A region without records and entries changes. -/
theorem State.Orderly.replaced (h : s.Orderly) (hk : recsOf s.queue k = [] ∧ entsOf s.demand k = [])
    (core : ∀ j, j ≠ k → t.core j = s.core j) (hq : t.queue = s.queue) (hr : t.replay = s.replay) (hd : t.demand = s.demand)
    (counted : ∀ c, t.cycle? k = some c → c.counted) : t.Orderly := by
  refine ⟨fun j c hc => ?_, h.fitted.of_region k core (fun j _ => by rw [hq]) (fun j _ => by rw [hd]) ?_, h.paired.of_same hq hr hd⟩
  · by_cases hj : j = k
    · exact counted c (hj ▸ hc)
    · rw [State.cycle?_eq_core, core j hj, ← State.cycle?_eq_core] at hc
      exact h.counted j c hc
  · rw [hq, hd, hk.1, hk.2]
    exact .of_empty _

theorem State.Orderly.blank_of_core (h : s.Orderly) (hk : ∀ c, s.core k ≠ some (.active, some c)) :
    recsOf s.queue k = [] ∧ entsOf s.demand k = [] := (h.fitted k).2 hk

theorem FitsAt.sublist {x : Option (Life × Option Cycle)} (h : FitsAt x recs ents) (hr : recs'.Sublist recs) (he : ents'.Sublist ents) :
    FitsAt x recs' ents' := by
  refine ⟨fun c hc => (h.1 c hc).sublist hr fun e hm => he.subset hm, fun hnot => ?_⟩
  obtain ⟨noRecs, noEnts⟩ := h.2 hnot
  exact ⟨List.sublist_nil.1 (noRecs ▸ hr), List.sublist_nil.1 (noEnts ▸ he)⟩

theorem recsOf_sublist {l l' : List QRecord} (h : l.Sublist l') (k : SlotNo) : (recsOf l k).Sublist (recsOf l' k) := h.filter _

theorem entsOf_sublist {l l' : List DemandEntry} (h : l.Sublist l') (k : SlotNo) : (entsOf l k).Sublist (entsOf l' k) := h.filter _

theorem recsOf_others (l : List QRecord) {j : SlotNo} (h : j ≠ k) : recsOf (l.filter fun r => r.region != k) j = recsOf l j := by
  rw [recsOf, recsOf, List.filter_filter]
  refine List.filter_congr fun r _ => ?_
  by_cases hj : r.region = j
  · simp [hj, h]
  · simp [hj]

theorem entsOf_others (l : List DemandEntry) {j : SlotNo} (h : j ≠ k) : entsOf (l.filter fun e => e.region != k) j = entsOf l j := by
  rw [entsOf, entsOf, List.filter_filter]
  refine List.filter_congr fun e _ => ?_
  by_cases hj : e.region = j
  · simp [hj, h]
  · simp [hj]

theorem recsOf_removed (l : List QRecord) (k : SlotNo) : recsOf (l.filter fun r => r.region != k) k = [] := by
  simp [recsOf, List.filter_eq_nil_iff]

theorem entsOf_removed (l : List DemandEntry) (k : SlotNo) : entsOf (l.filter fun e => e.region != k) k = [] := by
  simp [entsOf, List.filter_eq_nil_iff]

theorem State.replayWaitsFor_iff (s : State) (k : SlotNo) : s.replayWaitsFor k = true ↔
    (∃ w, s.replay = .waiting w) ∧ ∃ r ∈ s.queue, r.selected = true ∧ r.region = k := by
  simp only [State.replayWaitsFor]
  split
  · simp_all
  · simp_all
  · simp_all

/-- The records and entries of a region are gone, and the unit has let a waiting record of it go (R107, R108, R124, R125). -/
theorem State.Paired.emptied (h : s.Paired) (k : SlotNo) (hq : t.queue = s.queue.filter fun r => r.region != k)
    (hr : t.replay = if s.replayWaitsFor k then .idle else s.replay) (hd : t.demand = s.demand.filter fun e => e.region != k) :
    t.Paired := by
  obtain ⟨one, idle, waits, part, requesters, lines, replays⟩ := h
  have mem : ∀ r, r ∈ t.queue ↔ r ∈ s.queue ∧ r.region ≠ k := fun r => by rw [hq, List.mem_filter, bne_iff_ne]
  have unique : ∀ r ∈ s.queue, r.selected = true → s.replayWaitsFor k = true → r.region = k := fun r hm hs hw => by
    obtain ⟨-, x, hx, hxs, hxk⟩ := (s.replayWaitsFor_iff k).1 hw
    rw [eq_of_countP_le_one one hm hx hs hxs, hxk]
  refine ⟨?_, fun hi r hm => ?_, fun hne his => ?_, fun hw r hm hs => ?_, hd ▸ requesters.filter _, hd ▸ lines.filter _, fun e he hrep => ?_⟩
  · rw [hq]
    exact Nat.le_trans (List.filter_sublist.countP_le) one
  · obtain ⟨hm, hne⟩ := (mem r).1 hm
    rw [hr] at hi
    split at hi
    · rw [Bool.eq_false_iff]
      exact fun hs => hne (unique r hm hs ‹_›)
    · exact idle hi r hm
  · rw [hr] at hne his
    split at hne
    · exact absurd rfl hne
    · rename_i hnot
      rw [if_neg hnot] at his
      obtain ⟨r, hm, hs⟩ := waits hne his
      refine ⟨r, (mem r).2 ⟨hm, fun hk => hnot ((s.replayWaitsFor_iff k).2 ⟨?_, r, hm, hs, hk⟩)⟩, hs⟩
      cases hrep : s.replay with
      | idle => exact absurd hrep hne
      | waiting w => exact ⟨w, rfl⟩
      | issued => rw [hrep] at his; cases his
  · rw [hr] at hw
    split at hw
    · cases hw
    · exact part hw r ((mem r).1 hm).1 hs
  · rw [hd, List.mem_filter, bne_iff_ne] at he
    obtain ⟨he, hne⟩ := he
    obtain ⟨hw, r, hm, hs, hk, hl⟩ := replays e he hrep
    have rest : r.region ≠ k := hk ▸ hne
    rw [hr, if_neg fun h => rest (unique r hm hs h)]
    exact ⟨hw, r, (mem r).2 ⟨hm, rest⟩, hs, hk, hl⟩

theorem State.Orderly.emptied (h : s.Orderly) (k : SlotNo) (core : ∀ j, j ≠ k → t.core j = s.core j)
    (counted : ∀ c, t.cycle? k = some c → c.counted) (hq : t.queue = s.queue.filter fun r => r.region != k)
    (hr : t.replay = if s.replayWaitsFor k then .idle else s.replay) (hd : t.demand = s.demand.filter fun e => e.region != k) :
    t.Orderly := by
  refine ⟨fun j c hc => ?_, h.fitted.of_region k core (fun j hj => hq ▸ recsOf_others s.queue hj) (fun j hj => hd ▸ entsOf_others s.demand hj) ?_,
    h.paired.emptied k hq hr hd⟩
  · by_cases hj : j = k
    · exact counted c (hj ▸ hc)
    · rw [State.cycle?_eq_core, core j hj, ← State.cycle?_eq_core] at hc
      exact h.counted j c hc
  · rw [hq, hd, recsOf_removed, entsOf_removed]
    exact .of_empty _

theorem State.Orderly.fence (h : s.Orderly) (k : SlotNo) : (s.fence k).Orderly := by
  refine h.emptied k (s.core_fence k) (fun c hc => ?_) (s.fence_queue k) ?_ ?_
  · rw [State.fence_cycle?, if_pos rfl] at hc
    obtain ⟨c₀, hc₀, rfl⟩ := Option.map_eq_some_iff.1 hc
    exact (h.counted k c₀ hc₀).giveUpCopies.of_eq rfl rfl rfl
  · rfl
  · rfl

theorem State.Orderly.report (h : s.Orderly) (k : SlotNo) (third : Bool) : (s.reportError k third).Orderly := by
  have charged : ∀ g, s.region? k = some g → (s.putRegion k (some g.afterReport)).Orderly := fun g hg =>
    h.of_cores (fun j => by
      obtain ⟨life, -, cycle, -⟩ := g.afterReport_keeps
      rw [State.core_of_set (s := s) rfl, life, cycle]
      split
      · rename_i e
        rw [e, State.core_of_some hg]
      · rfl) rfl rfl rfl
  rcases s.reportError_cases k third with ⟨-, e⟩ | ⟨g, hg, ⟨e, -⟩ | ⟨e, -⟩⟩ <;> rw [e]
  · exact h
  · exact charged g hg
  · exact (charged g hg).fence k

/-! ### Acceptance -/

theorem Cycle.lines_of_stale {n : Nat} (h : c.line n = .stale) : c.lines[n]? = some .stale := by
  rw [Cycle.line, List.getD_eq_getElem?_getD] at h
  cases hl : c.lines[n]? with
  | none => rw [hl] at h; cases h
  | some l => rw [hl] at h; exact congrArg some h

theorem State.recsOf_of_hasRecord (h : s.hasRecord k = false) : recsOf s.queue k = [] :=
  List.filter_eq_nil_iff.2 fun r hr => by simpa using (s.hasRecord_eq_false_iff k).1 h r hr

theorem State.Paired.undemanded (h : s.Paired) (hq : t.queue = s.queue) (hr : t.replay = s.replay) (hd : t.demand.Sublist s.demand) :
    t.Paired := by
  obtain ⟨one, idle, waits, part, requesters, lines, replays⟩ := h
  refine ⟨hq ▸ one, hq ▸ hr ▸ idle, hq ▸ hr ▸ waits, hq ▸ hr ▸ part, requesters.sublist hd, lines.sublist hd, fun e he => ?_⟩
  rw [hq, hr]
  exact replays e (hd.subset he)

/-- The cycle items of an ACTIVE region without records change, and lines of it leave the demand list. -/
theorem State.Orderly.unqueued (h : s.Orderly) (hg : s.region? k = some g) (hc : g.cycle = some c)
    (none : recsOf s.queue k = []) (ht : t.table = s.table.set k (some (g.withCycle c'))) (hq : t.queue = s.queue)
    (hr : t.replay = s.replay) (hd : t.demand.Sublist s.demand) (others : ∀ j, j ≠ k → entsOf t.demand j = entsOf s.demand j)
    (counted : c.counted → c'.counted) (hp : c'.pub = c.pub)
    (lines : ∀ e ∈ entsOf t.demand k, c.lines[e.line]? = some .stale → c'.lines[e.line]? = some .stale) : t.Orderly := by
  refine ⟨h.counted.of_set ht fun d hd => ?_, h.fitted.of_region k (fun j hj => ?_) (fun j _ => by rw [hq]) others ?_,
    h.paired.undemanded hq hr hd⟩
  · cases hd
    exact counted (h.counted.at hg hc)
  · rw [State.core_of_set ht, if_neg hj]
  · rw [State.core_of_set ht, if_pos rfl, hq, none]
    have hk := h.fitted k
    rw [State.core_of_some hg, hc] at hk
    show FitsAt (some (g.life, some c')) _ _
    by_cases hl : g.life = .active
    · rw [hl] at hk ⊢
      refine .of_active ⟨nofun, .nil, nofun, fun e he => ?_⟩
      obtain ⟨hpub, hline⟩ := (hk.1 c rfl).wanted e ((entsOf_sublist hd k).subset he)
      exact ⟨hp ▸ hpub, lines e he hline⟩
    · have gone := (hk.2 fun d hd => hl (congrArg Prod.fst (Option.some.inj hd))).2
      have noEnts : entsOf t.demand k = [] := List.sublist_nil.1 (by rw [← gone]; exact entsOf_sublist hd k)
      rw [noEnts]
      exact .of_empty _

/-- The P path's entry for a STALE line joins; an older one of the P path leaves, or becomes the replay unit's (R120). -/
theorem State.Orderly.joined (h : s.Orderly) {line : Nat} (core : s.core k = some (.active, some c)) (pub : c.pub = .opened ∨ c.pub = .sealWait)
    (stale : c.lines[line]? = some .stale) : (s.joinDemand .pPath k line).Orderly := by
  simp only [State.joinDemand]
  split
  · exact h
  · rename_i fresh
    obtain ⟨counted, fitted, one, idle, waits, part, requesters, lines, replays⟩ := h
    have replaced : ∀ x ∈ s.demand.filterMap s.replaced, x.requester = .replay ∧ s.replay = .waiting .demand ∧
        (∃ r ∈ s.queue, r.selected = true ∧ r.region = x.region ∧ r.line = x.line) ∧
        ∃ e ∈ s.demand, e.region = x.region ∧ e.line = x.line := fun x hx => by
      obtain ⟨e, he, hex⟩ := List.mem_filterMap.1 hx
      simp only [State.replaced] at hex
      split at hex
      · rename_i hrep
        cases hex
        obtain ⟨hw, hr⟩ := replays x he hrep
        exact ⟨hrep, hw, hr, x, he, rfl, rfl⟩
      · split at hex
        · rename_i hdem
          cases hex
          obtain ⟨hw, hr⟩ := (s.replayDemands_iff _ _).1 hdem
          exact ⟨rfl, hw, hr, e, he, rfl, rfl⟩
        · cases hex
    have new : ∀ e ∈ s.demand, ¬ (e.region = k ∧ e.line = line) := fun e he hkl => fresh ((s.demands_iff k line).2 ⟨e, he, hkl⟩)
    have placed : ∀ e x, s.replaced e = some x → x.region = e.region ∧ x.line = e.line := fun e x hx => by
      simp only [State.replaced] at hx
      split at hx
      · cases hx
        exact ⟨rfl, rfl⟩
      · split at hx
        · cases hx
          exact ⟨rfl, rfl⟩
        · cases hx
    have apart : (s.demand.filterMap s.replaced).Pairwise fun e f => ¬ (e.region = f.region ∧ e.line = f.line) :=
      lines.filterMap _ fun e f hef x hx y hy => by
        obtain ⟨hxr, hxl⟩ := placed e x hx
        obtain ⟨hyr, hyl⟩ := placed f y hy
        rwa [hxr, hxl, hyr, hyl]
    refine ⟨counted, fun j => ?_, one, idle, waits, part, ?_, ?_, fun e he hrep => ?_⟩
    · have entries : entsOf (s.demand.filterMap s.replaced ++ [⟨k, line, .pPath⟩]) j =
          entsOf (s.demand.filterMap s.replaced) j ++ if k = j then [⟨k, line, .pPath⟩] else [] := entsOf_append _ _ _
      show FitsAt (s.core j) (recsOf s.queue j) (entsOf (s.demand.filterMap s.replaced ++ [⟨k, line, .pPath⟩]) j)
      rw [entries]
      have old : ∀ x ∈ entsOf (s.demand.filterMap s.replaced) j, ∃ e ∈ entsOf s.demand j, e.line = x.line := fun x hx => by
        obtain ⟨hx, hxj⟩ := mem_entsOf.1 hx
        obtain ⟨-, -, -, e, he, her, hel⟩ := replaced x hx
        exact ⟨e, mem_entsOf.2 ⟨he, her.trans hxj⟩, hel⟩
      refine ⟨fun d hd => ?_, fun hnot => ?_⟩
      · obtain ⟨targets, order, chosen, wanted⟩ := (fitted j).1 d hd
        refine ⟨targets, order, chosen, fun x hx => ?_⟩
        rcases List.mem_append.1 hx with hx | hx
        · obtain ⟨e, he, hel⟩ := old x hx
          exact hel ▸ wanted e he
        · by_cases hkj : k = j
          · subst hkj
            rw [core] at hd
            cases hd
            rw [if_pos rfl] at hx
            rw [List.mem_singleton.1 hx]
            exact ⟨pub, stale⟩
          · rw [if_neg hkj] at hx
            cases hx
      · obtain ⟨noRecs, noEnts⟩ := (fitted j).2 hnot
        have hkj : k ≠ j := fun e => hnot c (e ▸ core)
        refine ⟨noRecs, ?_⟩
        rw [if_neg hkj, List.append_nil, List.eq_nil_iff_forall_not_mem]
        intro x hx
        obtain ⟨e, he, -⟩ := old x hx
        rw [noEnts] at he
        cases he
    · refine List.pairwise_append.2 ⟨?_, List.pairwise_singleton _ _, fun e he f hf => ?_⟩
      · refine apart.imp_of_mem fun {e f} he hf hne => ?_
        obtain ⟨-, -, ⟨r, hr, hrs, hrr, hrl⟩, -⟩ := replaced e he
        obtain ⟨-, -, ⟨r', hr', hrs', hrr', hrl'⟩, -⟩ := replaced f hf
        obtain rfl := eq_of_countP_le_one one hr hr' hrs hrs'
        exact absurd ⟨hrr.symm.trans hrr', hrl.symm.trans hrl'⟩ hne
      · rw [List.mem_singleton.1 hf, (replaced e he).1]
        exact Requester.noConfusion
    · refine List.pairwise_append.2 ⟨apart, List.pairwise_singleton _ _, fun x hx f hf hkl => ?_⟩
      obtain ⟨-, -, -, e, he, her, hel⟩ := replaced x hx
      rw [List.mem_singleton.1 hf] at hkl
      exact new e he ⟨her.trans hkl.1, hel.trans hkl.2⟩
    · rcases List.mem_append.1 he with he | he
      · obtain ⟨-, hw, hr, -⟩ := replaced e he
        exact ⟨hw, hr⟩
      · rw [List.mem_singleton.1 he] at hrep
        cases hrep

theorem State.orderly_accept {port : Port} {req : Request} {res : Resolution} (hr : s.Resolves port req res) (h : s.Orderly) :
    (s.accept port req res).Orderly := by
  have table := fun region bank phys state count => s.addTx_table port req region bank phys state count
  have queue : ∀ region bank phys state count, (s.addTx port req region bank phys state count).queue = s.queue := fun _ _ _ _ _ => by
    cases port <;> rfl
  have replay : ∀ region bank phys state count, (s.addTx port req region bank phys state count).replay = s.replay := fun _ _ _ _ _ => by
    cases port <;> rfl
  have demand : ∀ region bank phys state count, (s.addTx port req region bank phys state count).demand = s.demand := fun _ _ _ _ _ => by
    cases port <;> rfl
  have added : ∀ region bank phys state count, (s.addTx port req region bank phys state count).Orderly := fun _ _ _ _ _ =>
    h.of_same (table _ _ _ _ _) (queue _ _ _ _ _) (replay _ _ _ _ _) (demand _ _ _ _ _)
  cases hr with
  | boundary => exact added _ _ _ _ _
  | unmatchedRefused => exact (added none none none (.done .refused []) none).of_same rfl rfl rfl rfl
  | passed => exact added _ _ _ _ _
  | refused k =>
    exact (added (some k) none none (.done .refused []) none).modRegion k _ (fun g _ hc => hc) fun g _ _ fits => fits
  | fenced => exact added _ _ _ _ _
  | single => exact added _ _ _ _ _
  | read k g c bank phys =>
    refine (added (some k) (some bank) (some phys) .accepted (some (.reader bank))).modCycle k _ fun d _ => ?_
    exact ⟨fun h => Cycle.counted_enter h _, fun fit => fit.alike (d.alike_enter bank) fun e he => ⟨he, fun hl => by cases bank <;> exact hl⟩⟩
  | draftWrite k g c phys onP found life cycle pub none =>
    subst onP
    have result : (s.accept .p req (.draftWrite k c.draft phys (g.defn.lineOf req.addr))).table =
        s.table.set k (some (g.withCycle ((c.setLine (g.defn.lineOf req.addr) .dirty).enter .writer))) :=
      congrArg State.table (State.modCycle_of_some _ k _ g c found cycle)
    have left : (s.accept .p req (.draftWrite k c.draft phys (g.defn.lineOf req.addr))).demand =
        s.demand.filter fun e => !(e.region == k && e.line == g.defn.lineOf req.addr) := rfl
    refine h.unqueued found cycle (State.recsOf_of_hasRecord none) result rfl rfl (left ▸ List.filter_sublist) (fun j hj => ?_)
      (fun hc => Cycle.counted_enter (hc.setLine _ _) _) (c.alike_setLine _ _).pub fun e he hl => ?_
    · rw [left]
      exact entsOf_undemanded _ _ hj
    · rw [left] at he
      obtain ⟨hm, hk⟩ := mem_entsOf.1 he
      obtain ⟨-, hne⟩ := mem_undemanded.1 hm
      have apart : g.defn.lineOf req.addr ≠ e.line := fun h => hne ⟨hk, h.symm⟩
      show (c.setLine (g.defn.lineOf req.addr) .dirty).lines[e.line]? = some .stale
      rw [Cycle.setLine_lines, List.getElem?_set_ne apart, hl]
  | holdWrite k g c reason onP found life cycle pub none line =>
    have entered : ((s.addTx port req (some k) (some c.draft) Option.none (s.newHold reason) (some .writer)).modCycle k (·.enter .writer)).Orderly := by
      subst onP
      rw [State.modCycle_of_some (s.addTx .p req (some k) (some c.draft) Option.none (s.newHold reason) (some .writer)) k _ g c found cycle]
      exact h.unqueued found cycle (State.recsOf_of_hasRecord none) (c' := c.enter .writer) rfl rfl rfl (.refl _) (fun _ _ => rfl)
        (fun hc => Cycle.counted_enter hc _) rfl fun e _ hl => hl
    simp only [State.accept]
    split
    · rename_i hd
      obtain ⟨-, hl⟩ := line.resolve_right fun h => nomatch h.1.symm.trans hd
      refine entered.joined (c := c.enter .writer) ?_ (.inl pub) (Cycle.lines_of_stale hl)
      subst onP
      have set : ((s.addTx .p req (some k) (some c.draft) Option.none (s.newHold reason) (some .writer)).modCycle k (·.enter .writer)).table =
          s.table.set k (some (g.withCycle (c.enter .writer))) := congrArg State.table (State.modCycle_of_some _ k _ g c found cycle)
      rw [State.core_of_set set, if_pos rfl, Region.withCycle_cycle, ← life]
      rfl
    · exact entered
  | holdQueue => exact added _ _ _ _ _
  | holdOverlap => exact added _ _ _ _ _
  | posted k g c onP found life cycle pub =>
    subst onP
    exact h.posted found life cycle pub req rfl rfl rfl rfl

/-! ### Responses -/

/-- A slot gives up its line, and no entry of the demand list is for it. -/
theorem State.Orderly.givenBack (h : s.Orderly) (hs : s.copied) {j : Fin 4} {y : Copy} (slot : s.slots[j] = .copying y) (l : LineState) :
    ((s.setSlot j .free).modCycle y.region (·.setLine y.line l)).Orderly := by
  obtain ⟨c, hc, hline, -⟩ := (hs y.region).taken j y.line y.source y.target (by rw [slot, CopySlot.on_copying rfl])
  refine State.Orderly.modCycle (s := s.setSlot j .free) (h.of_same rfl rfl rfl rfl) y.region (·.setLine y.line l) fun d hd => ⟨fun h => h.setLine _ _, fun fit => ?_⟩
  obtain rfl : d = c := Option.some.inj (hd.symm.trans hc)
  refine fit.alike (d.alike_setLine y.line l) fun e he => ⟨he, fun hl => ?_⟩
  have apart : y.line ≠ e.line := fun h => by
    rw [← h, hline] at hl
    cases hl
  rw [Cycle.setLine_lines, List.getElem?_set_ne apart, hl]

theorem State.Orderly.replayDone (h : s.Orderly) (issued : s.replay.isIssued = true) : s.replayDone.Orderly := by
  obtain ⟨counted, fitted, one, -, -, -, requesters, lines, replays⟩ := h
  refine ⟨counted, fun k => (fitted k).sublist (recsOf_sublist List.filter_sublist k) (.refl _),
    Nat.le_trans (List.filter_sublist.countP_le) one, fun _ r hr => ?_, fun h => absurd rfl h, nofun, requesters, lines, fun e he hrep => ?_⟩
  · simpa using (List.mem_filter.1 hr).2
  · rw [(replays e he hrep).1] at issued
    cases issued

theorem State.Orderly.portAnswered (h : s.Orderly) (port : Port) (place : Nat) (status : MStatus) (data : List Word) :
    (s.portAnswered port place status data).Orderly := by
  cases port <;> exact h.of_same rfl rfl rfl rfl

theorem State.Handed.orderly {o : Owner} (h : s.Handed o t) (hs : s.Orderly) (hc : s.copied) : t.Orderly := by
  cases h with
  | gone => exact hs
  | answered port place status data => exact hs.portAnswered port place status data
  | unmatched port place status data => exact (hs.portAnswered port place status data).of_same rfl rfl rfl rfl
  | reported port place status data k => exact (hs.portAnswered port place status data).report k false
  | slotFree => exact hs
  | slotFinished => exact hs.of_same rfl rfl rfl rfl
  | slotEnded j y slot => exact hs.givenBack hc slot .stale
  | slotRead => exact hs.of_same rfl rfl rfl rfl
  | slotCopied j y slot => exact hs.givenBack hc slot .sync
  | slotRetries j y third => exact (hs.report y.region third).of_same rfl rfl rfl rfl
  | slotLost j y third => exact hs.report y.region third
  | replayFree => exact hs
  | replayDone k w issued => exact hs.replayDone (by rw [issued]; rfl)
  | replayError k w issued => exact (hs.replayDone (by rw [issued]; rfl)).report k false

/-! ### The other beginnings -/

theorem State.Orderly.holdExpiry (h : s.Orderly) : s.holdExpiry.Orderly := by
  rcases s.holdExpiry_cases with e | ⟨x, -, -, e | ⟨j, -, e⟩⟩ <;> rw [e]
  · exact h
  · exact h.of_same rfl rfl rfl rfl
  · exact State.Orderly.modRegion (s := s.modHeld fun t => { t with state := .done .timeout [] }) (h.of_same rfl rfl rfl rfl) j
      Region.countTimeout (fun g _ hc => hc) fun g _ _ fits => fits

theorem FitsAt.epoch (h : FitsAt (some (g.life, g.cycle)) recs ents) (hl : g.life = .active) :
    FitsAt (some (g.epoch.life, g.epoch.cycle)) recs ents := by
  rw [g.epoch_life]
  cases hc : g.cycle with
  | none =>
    have cycle : g.epoch.cycle = none := by
      simp only [Region.epoch, hc]
      rw [g.changeOffset_keeps.2.2.1, hc]
    rw [cycle, ← hc]
    exact h
  | some c =>
    rw [Region.epoch_cycle hc, hl]
    have fit := h.1 c (by rw [hl, hc])
    split
    · exact .of_active (fit.published ‹_›)
    · exact .of_active fit

theorem Region.epoch_counted (h : ∀ c, g.cycle = some c → c.counted) : ∀ c, g.epoch.cycle = some c → c.counted := fun c' hc' => by
  cases hc : g.cycle with
  | none =>
    simp only [Region.epoch, hc] at hc'
    rw [g.changeOffset_keeps.2.2.1, hc] at hc'
    cases hc'
  | some c =>
    rw [Region.epoch_cycle hc] at hc'
    have counted := h c hc
    split at hc' <;> cases hc'
    · exact counted.publish
    · exact counted

theorem FitsAt.sealed {queue : List QRecord} (h : FitsAt (some (g.life, g.cycle)) (recsOf queue k) ents)
    (hc : ∀ c, g.cycle = some c → c.counted) :
    FitsAt (some ((g.modCycle (·.takeSeal queue k)).life, (g.modCycle (·.takeSeal queue k)).cycle)) (recsOf queue k) ents := by
  cases hgc : g.cycle with
  | none => rwa [Region.modCycle_of_none hgc]
  | some c =>
    rw [Region.modCycle_life, Region.modCycle_cycle, hgc, Option.map_some]
    rw [hgc] at h
    by_cases hl : g.life = .active
    · rw [hl] at h ⊢
      exact .of_active ((h.1 c rfl).sealTaken (hc c hgc))
    · have none := h.2 fun d hd => hl (congrArg Prod.fst (Option.some.inj hd))
      rw [none.1, none.2]
      exact .of_empty _

theorem Region.sealed_counted {queue : List QRecord} (hc : ∀ c, g.cycle = some c → c.counted) :
    ∀ c, (g.modCycle (·.takeSeal queue k)).cycle = some c → c.counted := fun c' hc' => by
  rw [Region.modCycle_cycle, Option.map_eq_some_iff] at hc'
  obtain ⟨c, hgc, rfl⟩ := hc'
  obtain ⟨pub, pending, e, -⟩ := c.takeSeal_keeps queue k
  exact (hc c hgc).of_eq (by rw [e]) (by rw [e]) (by rw [e])

theorem FitsAt.returned (h : FitsAt (some (g.life, g.cycle)) recs ents) (b : Bool) :
    FitsAt (some ((g.returnIf b).life, (g.returnIf b).cycle)) recs ents := by
  rcases g.returnIf_cases b with ⟨e, -⟩ | ⟨hl, -, e⟩ <;> rw [e]
  · exact h
  · have none := h.2 fun c hc => by rw [hl] at hc; cases hc
    rw [none.1, none.2]
    exact .of_empty _

theorem Region.returned_counted (hc : ∀ c, g.cycle = some c → c.counted) (b : Bool) :
    ∀ c, (g.returnIf b).cycle = some c → c.counted := by
  rcases g.returnIf_cases b with ⟨e, -⟩ | ⟨-, -, e⟩ <;> rw [e]
  · exact hc
  · exact nofun

/-- A region with no line map, or a HALTED one, has no records and no entries. -/
theorem State.Orderly.halted_blank (h : s.Orderly) (hg : s.region? k = some g) (hc : g.cycle = some c) (hp : c.pub = .halted) :
    recsOf s.queue k = [] ∧ entsOf s.demand k = [] := by
  by_cases hl : g.life = .active
  · obtain ⟨targets, -, -, wanted⟩ := h.fitted.fit hg hl hc
    refine ⟨List.eq_nil_iff_forall_not_mem.2 fun r hr => (targets r hr).1 hp, List.eq_nil_iff_forall_not_mem.2 fun e he => ?_⟩
    rcases (wanted e he).1 with h | h <;> rw [hp] at h <;> cases h
  · refine h.blank_of_core fun d hd => hl ?_
    rw [State.core_of_some hg] at hd
    exact congrArg Prod.fst (Option.some.inj hd)

theorem replicate_stale_counted (n : Nat) : (List.replicate n LineState.stale).countP (fun l => l == .stale || l == .copying) = n ∧
    (List.replicate n LineState.stale).countP (· == .dirty) = 0 := by
  simp [List.countP_replicate]

theorem State.Begun.orderly (h : s.Begun t) (hcopy : s.copied) (hs : s.Orderly) : t.Orderly := by
  have defined_blank : ∀ k g, s.region? k = some g → g.life = .defined → ∀ c, s.core k ≠ some (.active, some c) := fun k g hg hl c hc => by
    rw [State.core_of_some hg, hl] at hc
    cases hc
  cases h with
  | same => exact hs
  | linked => exact hs.of_same rfl rfl rfl rfl
  | accepted port req => exact State.orderly_accept (s.resolves port req) hs
  | taken port x rest =>
    have removed : (s.setTracker port rest).Orderly := by cases port <;> exact hs.of_same rfl rfl rfl rfl
    rcases (s.setTracker port rest).leaveCount_cases x with ⟨e, -⟩ | ⟨j, e', -, -, e⟩ <;> rw [e]
    · exact removed
    · refine removed.modCycle j _ fun c _ => ?_
      obtain ⟨alike, stale, lines⟩ := c.alike_leave e'
      obtain ⟨a, b, w, same⟩ := c.leave_keeps e'
      refine ⟨fun h => ?_, fun fit => fit.alike alike fun e he => ⟨he, fun hl => lines ▸ hl⟩⟩
      rw [same]
      exact h.of_eq rfl rfl rfl
  | aged => exact State.Orderly.holdExpiry (s := State.ageHold { s with timeBase := s.timeBase + 1 }) (hs.of_same rfl rfl rfl rfl)
  | expired => exact hs.holdExpiry
  | memoryTakes => exact hs.of_same rfl rfl rfl rfl
  | handed o rest t oldest hands => exact hands.orderly (s := { s with outstanding := rest }) (hs.of_same rfl rfl rfl rfl) (hcopy.of_same rfl rfl)
  | sealEntered j => exact hs.modRegion j _ (fun g _ hc => Region.sealedEntry_counted hc) fun g _ hc fits => fits.sealEntered hc
  | drainEnded j => exact hs.modRegion j _ (fun g _ hc => Region.drainEnd_counted hc) fun g _ hc fits => fits.drainEnded hc
  | returned j => exact hs.modRegion j _ (fun g _ hc => g.returned_counted hc _) fun g _ _ fits => fits.returned _
  | seals groups =>
    refine hs.mapRegions _ (fun k g _ hc => ?_) fun k g _ hc fits => ?_
    · split
      · exact Region.sealed_counted hc
      · exact hc
    · split
      · exact fits.sealed hc
      · exact fits
  | epoch source =>
    refine hs.mapRegions _ (fun k g _ hc => ?_) fun k g _ hc fits => ?_
    · split
      · exact g.epoch_counted hc
      · exact hc
    · split
      · rename_i hb
        rw [Bool.and_eq_true, beq_iff_eq] at hb
        exact fits.epoch hb.1
      · exact fits
  | defined p j free =>
    have table : (s.putRegion j (some (newRegion (definitionOf p)))).table = s.table.set j (some (newRegion (definitionOf p))) := rfl
    refine hs.replaced (hs.blank_of_core (k := j) fun c hc => ?_) (fun i hi => ?_) rfl rfl rfl fun c hc => ?_
    · rw [State.core, free] at hc
      cases hc
    · rw [State.core_of_set table, if_neg hi]
    · rw [State.cycle?_of_set table, if_pos rfl] at hc
      cases hc
  | undefined j g found life =>
    refine hs.replaced (hs.blank_of_core (defined_blank j g found life)) (fun i hi => ?_) rfl rfl rfl fun c hc => ?_
    · rw [State.core, State.region?_putRegion, if_neg hi, State.core]
    · rw [State.cycle?_eq, State.region?_putRegion, if_pos rfl] at hc
      cases hc
  | activated matched j g found life =>
    have table : (s.putRegion j (some (g.activated matched))).table = s.table.set j (some (g.activated matched)) := rfl
    refine hs.replaced (hs.blank_of_core (defined_blank j g found life)) (fun i hi => ?_) rfl rfl rfl fun c hc => ?_
    · rw [State.core_of_set table, if_neg hi]
    · rw [State.cycle?_of_set table, if_pos rfl] at hc
      obtain ⟨d, -, rfl⟩ := Option.map_eq_some_iff.1 hc
      exact newCycle_counted _ _
  | retired j g found life =>
    refine hs.emptied j (fun i hi => ?_) (fun c hc => hs.counted j c ?_) rfl rfl rfl
    · rw [State.core_of_table (s.retireRegion_table j), State.core, State.region?_modRegion, if_neg hi, State.core]
    · exact s.cycle?_retireRegion j j ▸ hc
  | revived j g found ok =>
    obtain ⟨-, -, c, hc, halted⟩ := g.revivable_iff.1 ok
    refine hs.replaced (hs.halted_blank found hc halted) (fun i hi => ?_) rfl rfl rfl fun d hd => ?_
    · rw [State.core, State.region?_modRegion, if_neg hi, State.core]
    · rw [State.cycle?_modRegion, if_pos rfl, found, Option.bind_some, Region.revived_cycle] at hd
      obtain ⟨c', -, rfl⟩ := Option.map_eq_some_iff.1 hd
      obtain ⟨stale, dirty⟩ := replicate_stale_counted c'.lines.length
      exact ⟨stale.symm, dirty.symm⟩
  | items j f keeps =>
    refine hs.modRegion j f (fun g _ hc => ?_) fun g _ _ fits => ?_
    · rwa [(keeps g).2.2]
    · rwa [(keeps g).2.1, (keeps g).2.2]
  | policy => exact hs.of_same rfl rfl rfl rfl
  | softReset =>
    refine ⟨fun k c hc => ?_, fun k => .of_empty _, Nat.zero_le _, fun _ => nofun, fun hne his => ?_, fun _ => nofun, .nil, .nil, nofun⟩
    · rw [State.cycle?_beginSoftReset] at hc
      cases hc
    · have hne : s.replay.softReset ≠ .idle := hne
      have his : s.replay.softReset.isIssued = false := his
      cases hrep : s.replay <;> simp [hrep, Replay.softReset, Replay.isIssued] at hne his
  | hardReset up =>
    refine ⟨fun k c hc => ?_, fun k => .of_empty _, Nat.zero_le _, fun _ => nofun, fun hne => absurd rfl hne, fun _ => nofun, .nil, .nil, nofun⟩
    rw [State.cycle?_eq, State.hardReset_region?] at hc
    cases hc

theorem State.Does.orderly (h : s.Does i t) (hcopy : s.copied) (hs : s.Orderly) (hh : s.heldFits) : t.Orderly ∧ t.heldFits :=
  h.brings (P := fun u => u.Orderly ∧ u.heldFits) (fun _ hu => ⟨hu.orderly hcopy hs, hu.heldFits hh⟩)
    (fun _ _ h => ⟨h.1.of_same rfl rfl rfl rfl, h.2.of_same rfl rfl⟩) fun _ _ h a => ⟨a.orderly h.2 h.1, a.heldFits h.2⟩

/-! ### The invariants of the statements -/

theorem State.orderly_of_agrees (hc : s.countsAgree) (hq : s.queueAgrees) (hr : s.replayAgrees) (hd : s.demandAgrees) : s.Orderly := by
  obtain ⟨records, order⟩ := hq
  obtain ⟨one, chosen, idle, waits, part⟩ := hr
  obtain ⟨-, requesters, lines, wanted, replays⟩ := hd
  refine ⟨State.counted_of_countsAgree hc, fun k => ⟨fun c hcore => ?_, fun hnot => ⟨?_, ?_⟩⟩, one, idle, waits, part, requesters, lines, replays⟩
  · obtain ⟨g, hg, hl, hgc⟩ := State.core_eq_some.1 hcore
    have same : ∀ r g' c', r = k → g' ∈ s.region? r → c' ∈ g'.cycle → c' = c := fun r g' c' hk hg' hc' => by
      subst hk
      rw [Option.mem_def, hg] at hg'
      cases hg'
      exact Option.some.inj (hc'.symm.trans hgc)
    refine ⟨fun r hr => ?_, ?_, fun r hr hs => ?_, fun e he => ?_⟩
    · obtain ⟨hm, hk⟩ := mem_recsOf.1 hr
      obtain ⟨g', hg', -, -, c', hc', fits⟩ := records r hm
      exact same _ g' c' hk hg' hc' ▸ fits
    · refine (order.filter _).imp_of_mem fun {q r} hq hr h => ?_
      obtain ⟨-, hqk⟩ := mem_recsOf.1 hq
      obtain ⟨-, hrk⟩ := mem_recsOf.1 hr
      exact h (hqk.trans hrk.symm) g (hrk ▸ hg) c hgc
    · obtain ⟨hm, hk⟩ := mem_recsOf.1 hr
      obtain ⟨g', hg', -, c', hc', hrest⟩ := chosen r hm hs
      exact same _ g' c' hk hg' hc' ▸ hrest
    · obtain ⟨hm, hk⟩ := mem_entsOf.1 he
      obtain ⟨g', hg', -, c', hc', hrest⟩ := wanted e hm
      exact same _ g' c' hk hg' hc' ▸ hrest
  · refine List.eq_nil_iff_forall_not_mem.2 fun r hr => ?_
    obtain ⟨hm, hk⟩ := mem_recsOf.1 hr
    obtain ⟨g, hg, hl, -, c, hc, -⟩ := records r hm
    exact hnot c (State.core_eq_some.2 ⟨g, hk ▸ hg, hl, hc⟩)
  · refine List.eq_nil_iff_forall_not_mem.2 fun e he => ?_
    obtain ⟨hm, hk⟩ := mem_entsOf.1 he
    obtain ⟨g, hg, hl, c, hc, -⟩ := wanted e hm
    exact hnot c (State.core_eq_some.2 ⟨g, hk ▸ hg, hl, hc⟩)

theorem State.orderly_of_safe (h : s.safe) : s.Orderly := by
  obtain ⟨counts, -, -, -, -, -, -, -, -, -, queue, replay, demand, -⟩ := h
  exact State.orderly_of_agrees counts queue replay demand

theorem State.healthAgrees.not_fenced (h : s.healthAgrees) (hg : s.region? k = some g) (hc : g.cycle = some c) :
    g.health ≠ .fenced ↔ c.pub ≠ .halted := not_congr ((h k g hg).1 c hc).1

theorem State.heldFits_of_agrees (hh : s.healthAgrees) (h : s.heldAgrees) : s.heldFits := fun x hx reason hreason => by
  obtain ⟨k, hk, g, hg, hl, healthy, hcy, hw⟩ := h x hx reason hreason
  obtain ⟨c, hc⟩ := Option.isSome_iff_exists.1 hcy
  exact ⟨k, c, hk, by rw [State.core_of_some hg, hl, hc], (hh.not_fenced hg hc).1 healthy, hw⟩

theorem State.heldFits.agrees (h : s.heldFits) (hh : s.healthAgrees) : s.heldAgrees := fun x hx reason hreason => by
  obtain ⟨k, c, hk, hcore, hp, hw⟩ := h x hx reason hreason
  obtain ⟨g, hg, hl, hc⟩ := State.core_eq_some.1 hcore
  exact ⟨k, hk, g, hg, hl, (hh.not_fenced hg hc).2 hp, by rw [hc]; rfl, hw⟩

theorem State.fitted.of_rec (h : s.fitted) {r : QRecord} (hr : r ∈ s.queue) : ∃ g c, s.region? r.region = some g ∧ g.life = .active ∧
    g.cycle = some c ∧ Fit c (recsOf s.queue r.region) (entsOf s.demand r.region) := by
  obtain ⟨g, c, hg, hl, hc⟩ := h.active_of_rec hr
  exact ⟨g, c, hg, hl, hc, h.fit hg hl hc⟩

theorem State.Orderly.queueAgrees (h : s.Orderly) (hh : s.healthAgrees) : s.queueAgrees := by
  refine ⟨fun r hr => ?_, ?_⟩
  · obtain ⟨g, c, hg, hl, hc, fit⟩ := h.fitted.of_rec hr
    have fits := fit.targets r (mem_recsOf.2 ⟨hr, rfl⟩)
    exact ⟨g, hg, hl, (hh.not_fenced hg hc).2 fits.1, c, hc, fits⟩
  · refine List.pairwise_iff_getElem.2 fun i j hi hj hij hk g hg c hc ht => ?_
    have hr := List.getElem_mem hj
    obtain ⟨g', c', hg', hl, hc', fit⟩ := h.fitted.of_rec hr
    rw [Option.mem_def, hg'] at hg
    cases hg
    rw [Option.mem_def, hc'] at hc
    cases hc
    have ordered : s.queue.Pairwise fun q r => q.region = s.queue[j].region → r.region = s.queue[j].region →
        r.target = c.gen + 1 → q.target = c.gen + 1 := by
      have sorted := fit.order
      rw [recsOf, List.pairwise_filter] at sorted
      exact sorted.imp fun h hq hr => h (by simpa using hq) (by simpa using hr)
    exact List.pairwise_iff_getElem.1 ordered i j hi hj hij hk rfl ht

theorem State.Orderly.replayAgrees (h : s.Orderly) : s.replayAgrees := by
  obtain ⟨one, idle, waits, part, -⟩ := h.paired
  refine ⟨one, fun r hr hs => ?_, idle, waits, part⟩
  obtain ⟨g, c, hg, hl, hc, fit⟩ := h.fitted.of_rec hr
  exact ⟨g, hg, hl, c, hc, fit.chosen r (mem_recsOf.2 ⟨hr, rfl⟩) hs⟩

/-- Entries of two requesters, all different, are two at most. -/
theorem length_le_two_of_requesters {l : List DemandEntry} (h : l.Pairwise fun e f => e.requester ≠ f.requester) : l.length ≤ 2 := by
  match l with
  | [] => simp
  | [_] => simp
  | [_, _] => simp
  | e :: f :: e' :: rest =>
    simp only [List.pairwise_cons, List.mem_cons, forall_eq_or_imp] at h
    obtain ⟨⟨hef, hee, -⟩, ⟨hfe, -⟩, -⟩ := h
    cases he : e.requester <;> cases hf : f.requester <;> cases he' : e'.requester <;> simp_all

theorem State.Orderly.demandAgrees (h : s.Orderly) : s.demandAgrees := by
  obtain ⟨-, -, -, -, requesters, lines, replays⟩ := h.paired
  refine ⟨length_le_two_of_requesters requesters, requesters, lines, fun e he => ?_, replays⟩
  obtain ⟨g, c, hg, hl, hc⟩ := h.fitted.active_of_entry he
  exact ⟨g, hg, hl, c, hc, (h.fitted.fit hg hl hc).wanted e (mem_entsOf.2 ⟨he, rfl⟩)⟩

theorem State.sealedReady_iff (s : State) : s.sealedReady ↔ ∀ k, s.sealedAt k := State.forall_cycle?

/-- Settles O55. -/
theorem sealedOnlyWhenReady : Obligations.SealedOnlyWhenReady := by
  refine ⟨fun s t i k g g' c c' hexec hg hc hp hg' hc' hp' => ?_, fun s t safe hstep => ?_⟩
  · have unsealed : ∀ d, s.cycle? k = some d → d.pub ≠ .isSealed := fun d hd => by
      rw [State.cycle?_of_some hg, hc] at hd
      cases hd
      exact hp
    obtain ⟨stale, targets, writers⟩ :=
      (State.does_of_exec hexec).sealedAt (.unsealed unsealed) (.inl unsealed) c' (State.cycle?_eq_some.2 ⟨g', hg', hc'⟩) hp'
    exact ⟨stale, writers, targets⟩
  · have orderly := State.orderly_of_safe safe
    obtain ⟨-, -, placed, health, -, copies, -, -, -, held, -, -, -, sealed, -⟩ := safe
    have copied := s.copiesAgree_iff.1 copies
    have fits := State.heldFits_of_agrees health held
    obtain ⟨rest, i, h⟩ := State.does_of_step hstep
    obtain ⟨orderly', fits'⟩ := h.orderly (s := { s with pending := rest }) copied (orderly.of_same rfl rfl rfl rfl) (fits.of_same rfl rfl)
    obtain ⟨-, health'⟩ := h.placesAndHealth placed health
    refine ⟨t.sealedReady_iff.2 fun k => ?_, orderly'.queueAgrees health', fits'.agrees health', orderly'.replayAgrees⟩
    exact h.sealedAt (s := { s with pending := rest }) (s.sealedReady_iff.1 sealed k) (.inr ⟨orderly.counted, copied⟩)

end Sys2Proof.Machine
end

section
/-! PROOFS. No command but an activation makes a region live or asks entries of the tracking pool, and an activation checks both.
Settles O57. -/

namespace Sys2Proof.Machine

open Relation (ReflTransGen)

variable {s t u : State} {i : Instr} {m : Nat} {k : SlotNo} {g g' : Region} {c c' : Cycle}

/-- The record is not live unless it was, asks no more pool entries, and keeps its definition. -/
structure Region.NoMore (g g' : Region) : Prop where
  defn : g'.defn = g.defn
  life : g'.life ≠ .defined → g.life ≠ .defined
  pool : g'.poolHeld ≤ g.poolHeld

theorem Region.poolHeld_of_some (h : g.cycle = some c) : g.poolHeld = c.lines.length := by
  simp only [Region.poolHeld, h]

theorem Region.poolHeld_of_none (h : g.cycle = none) : g.poolHeld = 0 := by
  simp only [Region.poolHeld, h]

/-- Pool entries are entries of the line map. -/
theorem Region.poolHeld_le (h : ∀ c', g'.cycle = some c' → ∃ c, g.cycle = some c ∧ c'.lines.length = c.lines.length) :
    g'.poolHeld ≤ g.poolHeld := by
  cases hc : g'.cycle with
  | none => exact (Region.poolHeld_of_none hc).trans_le (Nat.zero_le _)
  | some c' =>
    obtain ⟨c, hc₀, hl⟩ := h c' hc
    rw [Region.poolHeld_of_some hc, Region.poolHeld_of_some hc₀, hl]

theorem Region.poolHeld_le_of_cycle (h : g'.cycle = g.cycle) : g'.poolHeld ≤ g.poolHeld :=
  Region.poolHeld_le fun c' hc' => ⟨c', h ▸ hc', rfl⟩

theorem Region.NoMore.refl (g : Region) : g.NoMore g := ⟨rfl, id, Nat.le_refl _⟩

theorem Region.NoMore.trans {a b c : Region} (h : a.NoMore b) (h' : b.NoMore c) : a.NoMore c :=
  ⟨h'.defn.trans h.defn, h.life ∘ h'.life, h'.pool.trans h.pool⟩

theorem Region.NoMore.of_same (hd : g'.defn = g.defn) (hl : g'.life = g.life) (hc : g'.cycle = g.cycle) : g.NoMore g' :=
  ⟨hd, fun h => hl ▸ h, Region.poolHeld_le_of_cycle hc⟩

theorem Region.NoMore.modCycle (g : Region) {f : Cycle → Cycle} (hf : ∀ c, (f c).lines.length = c.lines.length) : g.NoMore (g.modCycle f) := by
  refine ⟨rfl, id, Region.poolHeld_le fun c' hc' => ?_⟩
  rw [Region.modCycle_cycle, Option.map_eq_some_iff] at hc'
  obtain ⟨c, hc, rfl⟩ := hc'
  exact ⟨c, hc, hf c⟩

theorem Region.Carried.noMore (h : Carried g g') : g.NoMore g' := by
  refine ⟨(Region.Changed.carried (m := 0) h).defn, fun hl => ?_, Region.poolHeld_le fun c' hc' => ?_⟩
  · rcases h.modCycle_or_returned with ⟨f, rfl⟩ | ⟨-, rfl⟩
    · exact hl
    · exact absurd rfl hl
  · obtain ⟨c, hc, moved⟩ := h.moved hc'
    exact ⟨c, hc, moved.keeps.2.2⟩

theorem Region.Changed.noMore (h : Changed m g g') : g.NoMore g' := by
  cases h with
  | carried h => exact h.noMore
  | refused => exact .of_same rfl rfl rfl
  | timedOut => exact .of_same rfl rfl rfl
  | reported =>
    obtain ⟨life, defn, cycle, -⟩ := g.afterReport_keeps
    exact .of_same defn life cycle
  | fenced n =>
    rw [Region.fenced_eq]
    refine ⟨rfl, id, Region.poolHeld_le fun c' hc' => ?_⟩
    obtain ⟨c, hc, rfl⟩ := Option.map_eq_some_iff.1 hc'
    exact ⟨c, hc, by simp⟩
  | seals queue k =>
    refine .modCycle g fun c => ?_
    obtain ⟨pub, pending, e, -⟩ := c.takeSeal_keeps queue k
    rw [e]
  | retired n le life =>
    obtain ⟨defn, -, cycle, -⟩ := Region.recordDiscard_keeps ({ g with life := .retiring } : Region) n
    exact ⟨defn, fun _ => by simp [life], Region.poolHeld_le_of_cycle cycle⟩
  | revived =>
    refine ⟨rfl, id, Region.poolHeld_le fun c' hc' => ?_⟩
    rw [Region.revived_cycle] at hc'
    obtain ⟨c, hc, rfl⟩ := Option.map_eq_some_iff.1 hc'
    exact ⟨c, hc, by simp⟩
  | scrolled v =>
    obtain ⟨defn, life, cycle⟩ := g.scrolled_keeps v
    exact .of_same defn life cycle
  | stepped => exact .of_same rfl rfl rfl
  | cleared mask b =>
    obtain ⟨defn, life, cycle, -⟩ := g.cleared_keeps mask b
    exact .of_same defn life cycle
  | reset => exact ⟨rfl, fun h => absurd rfl h, Nat.zero_le _⟩

theorem Region.epoch_noMore (g : Region) : g.NoMore g.epoch := by
  refine ⟨g.epoch_defn, fun h => g.epoch_life ▸ h, Region.poolHeld_le fun c' hc' => ?_⟩
  cases hc : g.cycle with
  | none =>
    simp only [Region.epoch, hc] at hc'
    rw [g.changeOffset_keeps.2.2.1, hc] at hc'
    cases hc'
  | some c =>
    rw [Region.epoch_cycle hc] at hc'
    split at hc' <;> cases hc'
    · exact ⟨c, rfl, by simp [Cycle.publish]⟩
    · exact ⟨c', rfl, rfl⟩

/-! ### Pool and extents -/

theorem State.poolUsed_eq (s : State) : s.poolUsed = ∑ k : SlotNo, ((s.region? k).map Region.poolHeld).getD 0 := by
  have listed : s.table.toList = List.ofFn fun k : SlotNo => s.region? k := by
    refine List.ext_getElem (by simp) fun n h h' => ?_
    rw [List.getElem_ofFn, Vector.getElem_toList]
    rfl
  rw [State.poolUsed, listed, List.map_ofFn, List.sum_ofFn]
  refine Finset.sum_congr rfl fun k _ => ?_
  simp only [Function.comp]
  cases s.region? k <;> rfl

/-- Each record of `t` was one of `s` with no less, or is not live. -/
def State.shrinks (s t : State) : Prop :=
  ∀ k g', t.region? k = some g' → (g'.life = .defined ∧ g'.poolHeld = 0) ∨ ∃ g, s.region? k = some g ∧ g.NoMore g'

theorem State.shrinks.of_chains (h : State.chains (Region.Changed m) s t) : s.shrinks t := fun k g' hg' => by
  obtain ⟨g, hg, chain⟩ := h.exists_of_some_right hg'
  exact .inr ⟨g, hg, keeps_of_chain (P := g.NoMore) (fun hc h => h.trans hc.noMore) chain (.refl g)⟩

theorem State.shrinks.trans (h : s.shrinks t) (h' : t.shrinks u) : s.shrinks u := fun k g' hg' => by
  rcases h' k g' hg' with none | ⟨g, hg, more⟩
  · exact .inl none
  · rcases h k g hg with ⟨hl, hp⟩ | ⟨g₀, hg₀, more₀⟩
    · refine .inl ⟨by_contra fun hne => more.life hne hl, Nat.le_zero.1 (hp ▸ more.pool)⟩
    · exact .inr ⟨g₀, hg₀, more₀.trans more⟩

theorem State.shrinks.poolUsed (h : s.shrinks t) : t.poolUsed ≤ s.poolUsed := by
  rw [State.poolUsed_eq, State.poolUsed_eq]
  refine Finset.sum_le_sum fun k _ => ?_
  cases hg' : t.region? k with
  | none => exact Nat.zero_le _
  | some g' =>
    rcases h k g' hg' with ⟨-, hp⟩ | ⟨g, hg, more⟩
    · exact hp.trans_le (Nat.zero_le _)
    · rw [hg]
      exact more.pool

theorem State.shrinks.regionsApart (h : s.shrinks t) (hs : s.regionsApart) : t.regionsApart := by
  have live : ∀ k g', t.region? k = some g' → g'.life ≠ .defined → ∃ g, s.region? k = some g ∧ g.NoMore g' := fun k g' hg' hl =>
    (h k g' hg').resolve_left fun none => hl none.1
  rintro k g' hg' hl ⟨j, hj, x', hx', hxl, base, hb, base', hb', hshare⟩
  obtain ⟨g, hg, more⟩ := live k g' hg' hl
  obtain ⟨x, hx, morex⟩ := live j x' hx' hxl
  refine hs k g hg (more.life hl) ⟨j, hj, x, hx, morex.life hxl, base, more.defn ▸ hb, base', morex.defn ▸ hb', ?_⟩
  rwa [more.defn, morex.defn] at hshare

/-- A record that is not live is replaced by one that asks `n` entries. -/
theorem State.poolUsed_putRegion (s : State) (k : SlotNo) (g : Region) : (s.putRegion k (some g)).poolUsed ≤ s.poolUsed + g.poolHeld := by
  rw [State.poolUsed_eq, State.poolUsed_eq, ← Finset.add_sum_erase _ _ (Finset.mem_univ k), ← Finset.add_sum_erase (a := k) _ _ (Finset.mem_univ k),
    State.region?_putRegion_self, Option.map_some, Option.getD_some]
  have rest : ∀ j ∈ Finset.univ.erase k, (((s.putRegion k (some g)).region? j).map Region.poolHeld).getD 0 =
      ((s.region? j).map Region.poolHeld).getD 0 := fun j hj => by
    rw [State.region?_putRegion_ne _ _ _ _ (Finset.ne_of_mem_erase hj)]
  rw [Finset.sum_congr rfl rest]
  omega

theorem Region.activated_poolHeld (g : Region) (b : Bool) : (g.activated b).poolHeld = if g.defn.double.isSome then g.defn.size else 0 := by
  cases hd : g.defn.double with
  | none => exact Region.poolHeld_of_none (by simp [Region.activated, hd])
  | some d =>
    rw [Region.poolHeld_of_some (c := newCycle g.defn.size b) (by simp [Region.activated, hd])]
    simp [newCycle]

theorem State.regionsApart_activated {matched : Bool} (h : s.regionsApart) (apart : ¬ s.clashing k g.defn) :
    (s.putRegion k (some (g.activated matched))).regionsApart := by
  rintro j x hx hl ⟨j', hj', x', hx', hl', base, hb, base', hb', hshare⟩
  have others : ∀ i, i ≠ k → (s.putRegion k (some (g.activated matched))).region? i = s.region? i := fun i hi =>
    s.region?_putRegion_ne k i _ hi
  by_cases hj : j = k
  · subst hj
    rw [Option.mem_def, State.region?_putRegion_self] at hx
    cases hx
    rw [Option.mem_def, others j' hj'] at hx'
    exact apart ⟨j', hj', x', hx', hl', base, hb, base', hb', hshare⟩
  · rw [Option.mem_def, others j hj] at hx
    by_cases hk : j' = k
    · subst hk
      rw [Option.mem_def, State.region?_putRegion_self] at hx'
      cases hx'
      exact State.not_clashing_of_apart s apart hx hj hl base hb base' hb' hshare
    · rw [Option.mem_def, others j' hk] at hx'
      exact h j x hx hl ⟨j', hj', x', hx', hl', base, hb, base', hb', hshare⟩

theorem State.Recorded.poolAndExtents (h : s.Recorded i t) (hp : s.poolFits) (ha : s.regionsApart) : t.poolFits ∧ t.regionsApart := by
  have shrunk : ∀ {u : State}, u.poolFits → u.regionsApart → u.shrinks t → t.poolFits ∧ t.regionsApart := fun hp ha hs =>
    ⟨hs.poolUsed.trans hp, hs.regionsApart ha⟩
  cases h with
  | changed chains => exact shrunk hp ha (.of_chains chains)
  | epoch source row result =>
    subst result
    have first : s.shrinks (s.epoch source) := fun k g' hg' => by
      rw [s.region?_epoch, Option.map_eq_some_iff] at hg'
      obtain ⟨g, hg, rfl⟩ := hg'
      refine .inr ⟨g, hg, ?_⟩
      split
      · exact g.epoch_noMore
      · exact .refl g
    exact shrunk hp ha (first.trans (.of_chains ((State.chains_settle (s.epoch source)).mono (Region.Acted.changed (m := 0)))))
  | defined b p k row slot free valid table =>
    refine shrunk hp ha fun j g' hg' => ?_
    rw [State.region?_of_set table] at hg'
    split at hg'
    · cases hg'
      exact .inl ⟨rfl, rfl⟩
    · exact .inr ⟨g', hg', .refl g'⟩
  | undefined b k g row slot found life table =>
    refine shrunk hp ha fun j g' hg' => ?_
    have same : t.region? j = (s.putRegion k none).region? j := by rw [State.region?, State.region?, table]
    rw [same, State.region?_putRegion] at hg'
    split at hg'
    · cases hg'
    · exact .inr ⟨g', hg', .refl g'⟩
  | activated matched k g row found life apart pool chains =>
    refine shrunk (u := s.putRegion k (some (g.activated matched))) ?_ (s.regionsApart_activated ha apart)
      (.of_chains (chains.mono (Region.Acted.changed (m := 0))))
    have used := s.poolUsed_putRegion k (g.activated matched)
    rw [Region.activated_poolHeld] at used
    split at used
    · exact used.trans (pool ‹_›)
    · exact used.trans hp
  | hardReset row free =>
    refine shrunk hp ha fun j g' hg' => ?_
    rw [free j] at hg'
    cases hg'

/-- Settles O57. -/
theorem everyStepKeepsTheRanges : Obligations.EveryStepKeepsTheRanges := by
  refine ⟨fun s t hs hstep => ?_, fun s t safe hstep => ?_⟩
  · obtain ⟨rest, i, h⟩ := State.does_of_step hstep
    exact h.inRange (s := { s with pending := rest }) hs
  · have orderly := State.orderly_of_safe safe
    obtain ⟨-, -, -, health, -, copies, -, pool, apart, held, -⟩ := safe
    obtain ⟨rest, i, h⟩ := State.does_of_step hstep
    obtain ⟨orderly', -⟩ := h.orderly (s := { s with pending := rest }) (s.copiesAgree_iff.1 copies) (orderly.of_same rfl rfl rfl rfl)
      ((State.heldFits_of_agrees health held).of_same rfl rfl)
    obtain ⟨pool', apart'⟩ := State.Recorded.poolAndExtents (s := { s with pending := rest }) h.recorded pool apart
    exact ⟨pool', apart', orderly'.demandAgrees⟩

end Sys2Proof.Machine
end

section
/-! PROOFS. A region without queued records, held transactions and demand entries, through the rest of a happening: copy slots may take
lines of it, its controllers and its return act on it, and nothing else does. Settles O13 and O15. -/

namespace Sys2Proof.Machine

open Relation (ReflTransGen)

variable {s t u : State} {i : Instr} {k : SlotNo} {g g' : Region} {c c' : Cycle}

/-- No queued record, no held transaction and no demand entry is of region `k`. -/
structure State.IdleAt (s : State) (k : SlotNo) : Prop where
  queue : ∀ r ∈ s.queue, r.region ≠ k
  held : ∀ x ∈ s.pTracker, x.isHeld = true → x.region ≠ some k
  demand : ∀ e ∈ s.demand, e.region ≠ k

theorem State.IdleAt.of_same (h : s.IdleAt k) (hq : t.queue = s.queue) (hp : t.pTracker = s.pTracker) (hd : t.demand = s.demand) :
    t.IdleAt k := ⟨hq ▸ h.queue, hp ▸ h.held, hd ▸ h.demand⟩

theorem State.IdleAt.heldTx (h : s.IdleAt k) {x : Tx} {j : SlotNo} (hx : s.heldTx = some x) (hj : x.region = some j) : j ≠ k := by
  obtain ⟨hm, hh⟩ := s.heldTx_eq_some hx
  exact fun e => h.held x hm hh (e ▸ hj)

theorem State.IdleAt.modHeld (h : s.IdleAt k) {f : Tx → Tx} (hf : ∀ x, (f x).isHeld = false) :
    ∀ x ∈ (s.modHeld f).pTracker, x.isHeld = true → x.region ≠ some k := fun x hx held => by
  rw [State.modHeld_pTracker] at hx
  obtain ⟨y, hy, rfl⟩ := List.mem_map.1 hx
  split at held
  · rw [hf] at held
    cases held
  · rename_i hnot
    rw [if_neg hnot]
    exact h.held y hy held

theorem State.Decides.idleAt {r : QRecord} (h : s.Decides r g c t) (hr : r.region ≠ k) (hs : s.IdleAt k) : t.IdleAt k := by
  cases h with
  | copying => exact hs.of_same rfl rfl rfl
  | demand =>
    refine ⟨hs.queue, hs.held, fun e he => ?_⟩
    simp only at he
    split at he
    · exact hs.demand e he
    · rcases List.mem_append.1 he with he | he
      · exact hs.demand e he
      · rw [List.mem_singleton.1 he]
        exact hr
  | read => exact hs.of_same rfl rfl rfl
  | issue => exact ⟨hs.queue, hs.held, fun e he => hs.demand e (List.mem_filter.1 he).1⟩

theorem State.IdleAt.marked (h : s.IdleAt k) : ∀ r ∈ markFirst s.eligible s.queue, r.region ≠ k := fun r hr => by
  obtain ⟨q, hq, rfl | rfl⟩ := mem_markFirst hr
  · exact h.queue _ hq
  · exact h.queue q hq

theorem State.Act.idleAt (h : s.Act t) (hs : s.IdleAt k) : t.IdleAt k := by
  cases h with
  | same => exact hs
  | controllers => exact hs.of_same (s.mapRegions_queue _) (s.mapRegions_pTracker _) (s.mapRegions_demand _)
  | releaseWrite => exact ⟨hs.queue, hs.modHeld fun _ => rfl, hs.demand⟩
  | releasePost x j g c age limit held region =>
    refine ⟨fun r hr => ?_, hs.modHeld (f := fun t => { t with state := .done .okay [] }) fun _ => rfl, hs.demand⟩
    rcases List.mem_append.1 hr with hr | hr
    · exact hs.queue r hr
    · rw [List.mem_singleton.1 hr]
      exact hs.heldTx held region
  | releaseRead => exact ⟨hs.queue, hs.modHeld fun _ => rfl, hs.demand⟩
  | select r g c t first idle found cycle decides =>
    exact State.Decides.idleAt decides (hs.queue r (List.mem_of_find?_eq_some first)) ⟨hs.marked, hs.held, hs.demand⟩
  | issue r g c w t mem selected waits found cycle decides => exact decides.idleAt (hs.queue r mem) hs
  | take => exact ⟨hs.queue, hs.held, fun e he => hs.demand e (List.mem_filter.1 he).1⟩
  | present => exact hs.of_same rfl rfl rfl
  | grantTx port x =>
    cases port with
    | s => exact hs.of_same rfl rfl rfl
    | p =>
      refine ⟨hs.queue, fun y hy held => ?_, hs.demand⟩
      obtain ⟨z, hz, rfl⟩ := List.mem_map.1 (show y ∈ s.pTracker.map _ from hy)
      split at held
      · cases held
      · rename_i hnot
        rw [if_neg hnot]
        exact hs.held z hz held
  | grantEngine => exact hs.of_same rfl rfl rfl
  | grantNothing => exact hs.of_same rfl rfl rfl
  | returns => exact hs.of_same (s.mapRegions_queue _) (s.mapRegions_pTracker _) (s.mapRegions_demand _)
  | endReset => exact hs.of_same rfl rfl rfl
  | commit => exact hs.of_same rfl rfl rfl

/-- A copy slot takes a line of the region. -/
inductive Region.Lends (g : Region) : Region → Prop
  | line (c : Cycle) (n : Nat) (life : g.life = .active) (cycle : g.cycle = some c) (pub : c.pub = .opened ∨ c.pub = .sealWait)
      (stale : c.lines[n]? = some .stale) : g.Lends (g.withCycle { c with lines := c.lines.set n .copying })

theorem State.region?_of_set_ne {j : SlotNo} (h : t.table = s.table.set j (some g')) (hj : j ≠ k) : t.region? k = s.region? k := by
  rw [State.region?_of_set h, if_neg (Ne.symm hj)]

theorem State.Decides.region? {r : QRecord} (h : s.Decides r g c t) (hr : r.region ≠ k) : t.region? k = s.region? k := by
  cases h with
  | issue => exact State.region?_of_set_ne rfl hr
  | copying => rfl
  | demand => rfl
  | read => rfl

/-- What an act does to the record of such a region. -/
theorem State.Act.region_of_idle (h : s.Act t) (hs : s.IdleAt k) (hg : s.region? k = some g) : ∃ g', t.region? k = some g' ∧
    (g' = g ∨ g.Lends g' ∨ g' = (g.drainEnd s.queue k).sealedEntry s.queue k ∨ g' = g.returnIf (s.nothingLeft k)) := by
  have same : t.region? k = s.region? k → ∃ g', t.region? k = some g' ∧
      (g' = g ∨ g.Lends g' ∨ g' = (g.drainEnd s.queue k).sealedEntry s.queue k ∨ g' = g.returnIf (s.nothingLeft k)) := fun h =>
    ⟨g, h.trans hg, .inl rfl⟩
  cases h with
  | same => exact same rfl
  | controllers => exact ⟨_, by rw [State.region?_controllers, hg, Option.map_some], .inr (.inr (.inl rfl))⟩
  | releaseWrite x j g c reason age limit held region => exact same (State.region?_of_set_ne rfl (hs.heldTx held region))
  | releasePost => exact same rfl
  | releaseRead x j g c age limit bank held region => exact same (State.region?_of_set_ne rfl (hs.heldTx held region))
  | select r g c t first idle found cycle decides =>
    have kept := State.Decides.region? decides (hs.queue r (List.mem_of_find?_eq_some first))
    exact same kept
  | issue r g c w t mem selected waits found cycle decides => exact same (decides.region? (hs.queue r mem))
  | take j k' line ptr g₁ c free work found life cycle pub stale =>
    by_cases hk : k' = k
    · subst hk
      rw [hg] at found
      cases found
      refine ⟨_, ?_, .inr (.inl (.line c line life cycle pub stale))⟩
      rw [State.region?_of_set (s := s) (k := k') rfl, if_pos rfl]
    · exact same (State.region?_of_set_ne rfl hk)
  | present => exact same rfl
  | grantTx port => cases port <;> exact same rfl
  | grantEngine => exact same rfl
  | grantNothing => exact same rfl
  | returns => exact ⟨_, by rw [State.region?_returns, hg, Option.map_some], .inr (.inr (.inr rfl))⟩
  | endReset => exact same rfl
  | commit => exact same rfl

/-! ### An ACTIVE region that has nothing to wait for -/

/-- Neither a seal nor the end of a drain is due, whatever the queue holds. -/
def Cycle.rests (c : Cycle) : Prop := c.pub ≠ .sealWait ∧ (c.pub = .draining → c.readers c.draft ≠ 0)

theorem Region.controllers_of_rests (hl : g.life = .active) (hc : ∀ c, g.cycle = some c → c.rests) (queue : List QRecord) (k : SlotNo) :
    (g.drainEnd queue k).sealedEntry queue k = g := by
  cases hgc : g.cycle with
  | none => rw [(Region.controllers_of_not (.inr hgc) queue k).2, (Region.controllers_of_not (.inr hgc) queue k).1]
  | some c =>
    obtain ⟨notWaiting, drains⟩ := hc c hgc
    have undrained : g.drainEnd queue k = g := by
      rw [Region.drainEnd_of_active hl hgc, if_neg fun h => drains h.1 h.2, Region.withCycle_self hgc]
    rw [undrained, Region.sealedEntry_of_active hl hgc, if_neg fun h => notWaiting h.1, Region.withCycle_self hgc]

/-- The record in slot `k` is `g₀` but for lines that copy slots have taken, and nothing waits for it. -/
structure State.LentAt (s : State) (k : SlotNo) (g₀ : Region) : Prop where
  idle : s.IdleAt k
  record : ∃ g, s.region? k = some g ∧ ReflTransGen Region.Lends g₀ g ∧ g.life = .active ∧ ∀ c, g.cycle = some c → c.rests

theorem State.Act.lentAt {g₀ : Region} (h : s.Act t) (hs : s.LentAt k g₀) : t.LentAt k g₀ := by
  obtain ⟨idle, g, hg, lent, life, rests⟩ := hs
  refine ⟨h.idleAt idle, ?_⟩
  obtain ⟨g', hg', rfl | lends | rfl | rfl⟩ := h.region_of_idle idle hg
  · exact ⟨g', hg', lent, life, rests⟩
  · refine ⟨g', hg', lent.tail lends, ?_⟩
    cases lends with
    | line c n life cycle pub stale =>
      refine ⟨life, fun d hd => ?_⟩
      cases hd
      exact rests c cycle
  · rw [Region.controllers_of_rests life rests] at hg'
    exact ⟨g, hg', lent, life, rests⟩
  · rw [Region.returnIf_of_active life] at hg'
    exact ⟨g, hg', lent, life, rests⟩

theorem State.LentAt.settle {g₀ : Region} (h : s.LentAt k g₀) : s.settle.LentAt k g₀ := State.settle_keeps (fun _ _ h a => a.lentAt h) h

/-- Lines have gone from STALE to COPYING, and only in OPEN or SEAL_WAIT; the rest of the record is as it was. -/
structure Region.LentFrom (g₀ g : Region) : Prop where
  rest : ∃ x, g = { g₀ with cycle := x }
  none : g₀.cycle = none → g.cycle = none
  cycle : ∀ c₀, g₀.cycle = some c₀ → ∃ lines, g.cycle = some { c₀ with lines := lines } ∧ lines.length = c₀.lines.length ∧
    (∀ l ∈ lines, l ∈ c₀.lines ∨ (l = .copying ∧ .stale ∈ c₀.lines ∧ (c₀.pub = .opened ∨ c₀.pub = .sealWait)))

theorem Region.lentFrom_of_lends {g₀ : Region} (h : ReflTransGen Region.Lends g₀ g) : g₀.LentFrom g := by
  induction h with
  | refl => exact ⟨⟨g₀.cycle, rfl⟩, id, fun c₀ hc => ⟨c₀.lines, hc, rfl, fun l hl => .inl hl⟩⟩
  | tail _ lends ih =>
    cases lends with
    | line c n life cycle pub stale =>
      obtain ⟨⟨x, rfl⟩, none, same⟩ := ih
      refine ⟨⟨_, rfl⟩, fun h => ?_, fun c₀ hc₀ => ?_⟩
      · rw [none h] at cycle
        cases cycle
      · obtain ⟨lines, hlines, hlen, hmem⟩ := same c₀ hc₀
        rw [hlines] at cycle
        cases cycle
        refine ⟨lines.set n .copying, rfl, by rw [List.length_set, hlen], fun l hl => ?_⟩
        rcases List.mem_or_eq_of_mem_set hl with hl | rfl
        · exact hmem l hl
        · refine .inr ⟨rfl, ?_, pub⟩
          exact (hmem .stale (List.mem_of_getElem? stale)).resolve_right fun h => nomatch h.1

/-! ### Activation and REVIVE -/

theorem State.IdleAt.of_noWorkOf (h : s.noWorkOf k) : s.IdleAt k := by
  obtain ⟨queue, held, demand, -⟩ := h
  exact ⟨queue, held, demand⟩

/-- The record a command has put into slot `k`, after the rest of the happening. -/
theorem State.settled_lent {g₀ : Region} (hs : s.IdleAt k) (hg : s.region? k = some g₀) (hl : g₀.life = .active)
    (hr : ∀ c, g₀.cycle = some c → c.rests) : ∃ g, s.settle.region? k = some g ∧ g₀.LentFrom g := by
  have start : s.LentAt k g₀ := ⟨hs, g₀, hg, .refl, hl, hr⟩
  obtain ⟨-, g, hg, lent, -⟩ := start.settle
  exact ⟨g, hg, Region.lentFrom_of_lends lent⟩

/-- Settles O13. -/
theorem activateResult : Obligations.ActivateResult := by
  intro s slot k g matched hup hk hg hl hwork apart pool
  have chosen : exec (if matched then .activateMatched slot else .activate slot) s = .next (s.activate slot matched) := by
    cases matched <;> rfl
  have passes : ¬ s.poolShort g.defn = true := fun h => by
    obtain ⟨hd, hlt⟩ := (s.poolShort_iff g.defn).1 h
    have := pool hd
    omega
  have result : s.activate slot matched = ((s.putRegion k (some (g.activated matched))).answer 0 .ack []).settle := by
    rw [State.activate_of_defined hup hk hg hl, if_neg fun h => apart ((s.clashes_iff k g.defn).1 h), if_neg passes]
  have idle : State.IdleAt ((s.putRegion k (some (g.activated matched))).answer 0 .ack []) k :=
    (State.IdleAt.of_noWorkOf hwork).of_same rfl rfl rfl
  obtain ⟨g', hg', ⟨x, rfl⟩, none, cycle⟩ := State.settled_lent (g₀ := g.activated matched) idle (by simp) rfl fun c hc => by
    obtain ⟨d, -, rfl⟩ := Option.map_eq_some_iff.1 hc
    exact ⟨nofun, nofun⟩
  rw [chosen, result]
  refine ⟨_, _, rfl, State.settle_reply _, hg', rfl, rfl, rfl, rfl, rfl, rfl, rfl, rfl, rfl, rfl, fun hd => ?_, fun hd => ?_⟩
  · exact none (by simp [Region.activated, hd])
  · obtain ⟨d, hd⟩ := Option.isSome_iff_exists.1 hd
    obtain ⟨lines, hlines, hlen, hmem⟩ := cycle (newCycle g.defn.size matched) (by simp [Region.activated, hd])
    refine ⟨_, hlines, rfl, rfl, rfl, rfl, rfl, rfl, rfl, rfl, hlen.trans (by simp [newCycle]), fun hm => ?_, fun hm => ?_⟩
    · subst hm
      refine ⟨rfl, fun l hl => ?_⟩
      rcases hmem l hl with hl | ⟨rfl, -⟩
      · exact .inl (List.eq_of_mem_replicate hl)
      · exact .inr rfl
    · subst hm
      refine ⟨rfl, fun l hl => ?_⟩
      rcases hmem l hl with hl | ⟨-, hl, -⟩
      · exact List.eq_of_mem_replicate hl
      · exact nomatch List.eq_of_mem_replicate hl

/-- Settles O15. -/
theorem reviveResult : Obligations.ReviveResult := by
  intro s slot k g c hup hk hg hl hf hc hp hwork
  have result : exec (.revive slot) s = .next ((s.modRegion k Region.revived).answer 0 .ack []).settle :=
    congrArg Host.Outcome.next (State.recordCommand_of_ok hup hk hg (g.revivable_iff.2 ⟨hl, hf, c, hc, hp⟩) 0 _)
  have revived := g.revived_cycle
  rw [hc, Option.map_some] at revived
  have idle : State.IdleAt ((s.modRegion k Region.revived).answer 0 .ack []) k :=
    (State.IdleAt.of_noWorkOf hwork).of_same rfl rfl rfl
  obtain ⟨g', hg', ⟨x, rfl⟩, -, cycle⟩ := State.settled_lent (g₀ := g.revived) idle (by simp [hg]) hl fun d hd => by
    rw [revived] at hd
    cases hd
    refine ⟨fun h => ?_, fun h => ?_⟩
    · simp only at h
      split at h <;> cases h
    · simp only at h
      split at h
      · cases h
      · assumption
  obtain ⟨lines, hlines, hlen, hmem⟩ := cycle _ revived
  cases hlines
  have length : lines.length = c.lines.length := hlen.trans List.length_replicate
  refine ⟨_, _, result, State.settle_reply _, hg', rfl, rfl, rfl, rfl, rfl, rfl, rfl, rfl, length, rfl, fun l hl => ?_, fun hd l hl => ?_⟩
  · rcases hmem l hl with hl | ⟨rfl, -⟩
    · exact .inl (List.eq_of_mem_replicate hl)
    · exact .inr rfl
  · rcases hmem l hl with hl | ⟨-, -, hpub⟩
    · exact List.eq_of_mem_replicate hl
    · rcases hpub with h | h <;> exact nomatch hd.symm.trans h

end Sys2Proof.Machine
end

section
/-! PROOFS. What every act of the rest of a happening leaves standing: transactions that are answered, slots that are not FREE, an issued
replay write, the order of the queue. Settles O14. -/

namespace Sys2Proof.Machine

open Relation (ReflTransGen)

variable {s t u : State} {i : Instr} {k : SlotNo} {g g' : Region} {c c' : Cycle}

/-- The record as it is when it is not selected. -/
def QRecord.unmarked (r : QRecord) : QRecord := { r with selected := false }

/-- What stands of `s` after acts that lead to `t`. -/
structure State.Follows (s t : State) : Prop where
  pRegions : t.pTracker.map Tx.region = s.pTracker.map Tx.region
  sRegions : t.sTracker.map Tx.region = s.sTracker.map Tx.region
  done : ∀ x ∈ s.pTracker, ∀ status data, x.state = .done status data → x ∈ t.pTracker
  slots : ∀ j : Fin 4, s.slots[j] ≠ .free → t.slots[j] = s.slots[j]
  issued : ∀ j w, s.replay = .issued j w → t.replay = .issued j w
  busy : s.replay ≠ .idle → t.replay ≠ .idle
  queue : s.queue.map QRecord.unmarked <+: t.queue.map QRecord.unmarked

theorem State.Follows.refl (s : State) : s.Follows s :=
  ⟨rfl, rfl, fun _ h _ _ _ => h, fun _ _ => rfl, fun _ _ h => h, id, List.prefix_rfl⟩

theorem State.Follows.trans (h : s.Follows t) (h' : t.Follows u) : s.Follows u :=
  ⟨h'.pRegions.trans h.pRegions, h'.sRegions.trans h.sRegions,
    fun x hx status data hst => h'.done x (h.done x hx status data hst) status data hst,
    fun j hj => (h'.slots j (by rwa [h.slots j hj])).trans (h.slots j hj), fun j w hw => h'.issued j w (h.issued j w hw),
    fun hb => h'.busy (h.busy hb), h.queue.trans h'.queue⟩

theorem State.Follows.of_same (hp : t.pTracker = s.pTracker) (hs : t.sTracker = s.sTracker) (hc : t.slots = s.slots)
    (hr : t.replay = s.replay) (hq : t.queue = s.queue) : s.Follows t :=
  ⟨by rw [hp], by rw [hs], fun _ h _ _ _ => hp ▸ h, fun _ _ => by rw [hc], fun _ _ h => hr ▸ h, fun h => hr ▸ h, by rw [hq]⟩

/-- A held transaction goes on; the others stay. -/
theorem State.Follows.modHeld {f : Tx → Tx} (hp : t.pTracker = (s.modHeld f).pTracker) (hf : ∀ x, (f x).region = x.region)
    (hs : t.sTracker = s.sTracker) (hc : t.slots = s.slots) (hr : t.replay = s.replay)
    (hq : s.queue.map QRecord.unmarked <+: t.queue.map QRecord.unmarked) : s.Follows t := by
  rw [State.modHeld_pTracker] at hp
  refine ⟨?_, by rw [hs], fun x hx status data hst => ?_, fun _ _ => by rw [hc], fun _ _ h => hr ▸ h, fun h => hr ▸ h, hq⟩
  · rw [hp, List.map_map]
    refine List.map_congr_left fun x _ => ?_
    simp only [Function.comp]
    split
    · exact hf x
    · rfl
  · rw [hp]
    refine List.mem_map.2 ⟨x, hx, if_neg ?_⟩
    simp [Tx.isHeld, hst]

theorem State.Follows.decides {r : QRecord} (h : s.Decides r g c t) (hr : s.replay.isIssued = false) : s.Follows t := by
  have notIssued : ∀ j w, s.replay ≠ .issued j w := fun j w h => by rw [h] at hr; cases hr
  cases h with
  | copying => exact ⟨rfl, rfl, fun _ h _ _ _ => h, fun _ _ => rfl, fun j w h => absurd h (notIssued j w), fun _ => nofun, List.prefix_rfl⟩
  | demand => exact ⟨rfl, rfl, fun _ h _ _ _ => h, fun _ _ => rfl, fun j w h => absurd h (notIssued j w), fun _ => nofun, List.prefix_rfl⟩
  | read => exact ⟨rfl, rfl, fun _ h _ _ _ => h, fun _ _ => rfl, fun j w h => absurd h (notIssued j w), fun _ => nofun, List.prefix_rfl⟩
  | issue => exact ⟨rfl, rfl, fun _ h _ _ _ => h, fun _ _ => rfl, fun j w h => absurd h (notIssued j w), fun _ => nofun, List.prefix_rfl⟩

theorem State.follows_issued {port : Port} {x : Tx} :
    ((s.tracker port).map fun u => if u.place = x.place ∧ u.state = .accepted then { u with state := .issued } else u).map Tx.region =
      (s.tracker port).map Tx.region ∧
    ∀ y ∈ s.tracker port, ∀ status data, y.state = .done status data →
      y ∈ (s.tracker port).map fun u => if u.place = x.place ∧ u.state = .accepted then { u with state := .issued } else u := by
  refine ⟨?_, fun y hy status data hst => List.mem_map.2 ⟨y, hy, if_neg fun h => by rw [hst] at h; cases h.2⟩⟩
  rw [List.map_map]
  refine List.map_congr_left fun y _ => ?_
  simp only [Function.comp]
  split <;> rfl

theorem State.Act.follows (h : s.Act t) : s.Follows t := by
  cases h with
  | same => exact .refl s
  | controllers =>
    exact .of_same (s.mapRegions_pTracker _) (s.mapRegions_sTracker _) (s.mapRegions_slots _) (s.mapRegions_replay _) (s.mapRegions_queue _)
  | releaseWrite x k g c => exact .modHeld rfl (fun _ => rfl) rfl rfl rfl List.prefix_rfl
  | releasePost x k g c =>
    refine .modHeld (f := fun t => { t with state := .done .okay [] }) rfl (fun _ => rfl) rfl rfl rfl ?_
    rw [List.map_append]
    exact List.prefix_append _ _
  | releaseRead => exact .modHeld rfl (fun _ => rfl) rfl rfl rfl List.prefix_rfl
  | select r g c t first idle found cycle decides =>
    have marks : s.Follows { s with queue := markFirst s.eligible s.queue } :=
      ⟨rfl, rfl, fun _ h _ _ _ => h, fun _ _ => rfl, fun _ _ h => h, id, by
        show s.queue.map QRecord.unmarked <+: (markFirst s.eligible s.queue).map QRecord.unmarked
        rw [show (markFirst s.eligible s.queue).map QRecord.unmarked = s.queue.map QRecord.unmarked from markFirst_unmarked _ _]⟩
    exact marks.trans (.decides decides (by show s.replay.isIssued = false; rw [idle]; rfl))
  | issue r g c w t mem selected waits found cycle decides => exact .decides decides (by rw [waits]; rfl)
  | take j k line ptr g c free =>
    refine ⟨rfl, rfl, fun _ h _ _ _ => h, fun j' hj' => ?_, fun i w h => ?_, fun h => ?_, List.prefix_rfl⟩
    · have other : j.val ≠ j'.val := fun e => hj' (Fin.ext e ▸ free)
      simp [other]
    · have not : ¬ s.replayDemands k line = true := fun hd => by
        have waits := ((s.replayDemands_iff k line).1 hd).1
        rw [h] at waits
        cases waits
      show (if s.replayDemands k line = true then _ else s.replay) = _
      rw [if_neg not, h]
    · show (if s.replayDemands k line = true then _ else s.replay) ≠ _
      split
      · nofun
      · exact h
  | present => exact .of_same rfl rfl rfl rfl rfl
  | grantTx port x =>
    obtain ⟨regions, done⟩ := s.follows_issued (port := port) (x := x)
    cases port with
    | p => exact ⟨regions, rfl, done, fun _ _ => rfl, fun _ _ h => h, id, List.prefix_rfl⟩
    | s => exact ⟨rfl, regions, fun _ h _ _ _ => h, fun _ _ => rfl, fun _ _ h => h, id, List.prefix_rfl⟩
  | grantEngine => exact .of_same rfl rfl rfl rfl rfl
  | grantNothing => exact .of_same rfl rfl rfl rfl rfl
  | returns =>
    exact .of_same (s.mapRegions_pTracker _) (s.mapRegions_sTracker _) (s.mapRegions_slots _) (s.mapRegions_replay _) (s.mapRegions_queue _)
  | endReset => exact .of_same rfl rfl rfl rfl rfl
  | commit => exact .of_same rfl rfl rfl rfl rfl

theorem State.Follows.settle (s : State) : s.Follows s.settle :=
  State.settle_keeps (P := s.Follows) (fun _ _ h a => h.trans a.follows) (.refl s)

/-! ### The replay unit is IDLE, or has selected an eligible record -/

/-- The replay unit is IDLE, or the queue holds a selected record that is eligible. -/
def State.selectsEligible (s : State) : Prop := s.replay = .idle ∨ ∃ r ∈ s.queue, r.selected = true ∧ s.replayable r

theorem State.replayable_iff (s : State) (r : QRecord) : s.replayable r ↔ ∃ c, s.core r.region = some (.active, some c) ∧
    (c.pub = .opened ∨ c.pub = .sealWait) ∧ r.target = c.gen + 1 ∧ c.writers = 0 := by
  constructor
  · rintro ⟨g, hg, hl, c, hc, hrest⟩
    exact ⟨c, State.core_eq_some.2 ⟨g, hg, hl, hc⟩, hrest⟩
  · rintro ⟨c, hcore, hrest⟩
    obtain ⟨g, hg, hl, hc⟩ := State.core_eq_some.1 hcore
    exact ⟨g, hg, hl, c, hc, hrest⟩

theorem State.replayable_of_core {r : QRecord} (h : s.replayable r) (hc : t.core r.region = s.core r.region) : t.replayable r := by
  rw [State.replayable_iff] at h ⊢
  rwa [hc]

/-- A region whose cycle items stay alike keeps its records eligible. -/
theorem State.replayable_of_set {r : QRecord} {j : SlotNo} (h : s.replayable r) (hg : s.region? j = some g) (hc : g.cycle = some c)
    (ht : t.table = s.table.set j (some (g.withCycle c'))) (ha : c.Alike c') : t.replayable r := by
  by_cases hj : r.region = j
  · obtain ⟨d, hcore, hp, htarget, hw⟩ := (s.replayable_iff r).1 h
    rw [hj, State.core_of_some hg, hc] at hcore
    obtain ⟨hl, hd⟩ := Prod.mk.inj (Option.some.inj hcore)
    cases hd
    refine (t.replayable_iff r).2 ⟨c', ?_, ha.pub ▸ hp, ha.gen ▸ htarget, ha.writers hw⟩
    rw [hj, State.core_of_set ht, if_pos rfl, Region.withCycle_cycle, ← hl]
    rfl
  · exact State.replayable_of_core h (by rw [State.core_of_set ht, if_neg hj])

theorem State.Decides.replayable {r x : QRecord} (h : s.Decides r g c t) (hg : s.region? r.region = some g) (hc : g.cycle = some c)
    (hx : s.replayable x) : t.replayable x := by
  cases h with
  | issue => exact State.replayable_of_set hx hg hc rfl (c.alike_setLine _ _)
  | copying => exact State.replayable_of_core hx rfl
  | demand => exact State.replayable_of_core hx rfl
  | read => exact State.replayable_of_core hx rfl

theorem State.Decides.queue_eq {r : QRecord} (h : s.Decides r g c t) : t.queue = s.queue := by
  cases h <;> rfl

/-- A queued record of the draft generation keeps its region from SEALED. -/
theorem State.controllers_replayable {r : QRecord} (hr : r ∈ s.queue) (h : s.replayable r) : s.controllers.replayable r := by
  obtain ⟨g, hg, hl, c, hc, hp, ht, hw⟩ := h
  have undrained : g.drainEnd s.queue r.region = g := by
    rw [Region.drainEnd_of_active hl hc, if_neg fun h => ?_, Region.withCycle_self hc]
    rcases hp with hp | hp <;> exact nomatch hp.symm.trans h.1
  have unsealed : g.sealedEntry s.queue r.region = g := by
    rw [Region.sealedEntry_of_active hl hc, if_neg fun h => ?_, Region.withCycle_self hc]
    exact ((Cycle.readyToSeal_iff s c r.region).1 h.2).2.1 r hr rfl ht
  refine ⟨g, ?_, hl, c, hc, hp, ht, hw⟩
  rw [Option.mem_def, State.region?_controllers, hg, Option.map_some, undrained, unsealed]

theorem State.Act.selectsEligible (h : s.Act t) (hs : s.selectsEligible) : t.selectsEligible := by
  have others : t.replay = s.replay → (∀ r ∈ s.queue, r ∈ t.queue) → (∀ r ∈ s.queue, s.replayable r → t.replayable r) →
      t.selectsEligible := fun hr hq hx =>
    hs.imp (fun h => hr.trans h) fun ⟨r, hm, hsel, he⟩ => ⟨r, hq r hm, hsel, hx r hm he⟩
  cases h with
  | same => exact hs
  | controllers =>
    exact others (s.mapRegions_replay _) (fun r hr => (s.mapRegions_queue _).symm ▸ hr) fun r hr h => State.controllers_replayable hr h
  | releaseWrite x k g c reason age limit held region state found cycle =>
    exact others rfl (fun _ h => h) fun r _ h => State.replayable_of_set h found cycle rfl (c.alike_setLine _ _)
  | releasePost => exact others rfl (fun _ h => List.mem_append_left _ h) fun r _ h => State.replayable_of_core h rfl
  | releaseRead x k g c age limit bank held region state found cycle =>
    exact others rfl (fun _ h => h) fun r _ h => State.replayable_of_set h found cycle rfl (c.alike_enter bank)
  | select r g c t first idle found cycle decides =>
    refine .inr ⟨{ r with selected := true }, ?_, rfl, ?_⟩
    · rw [decides.queue_eq]
      exact marked_mem_markFirst first
    · have eligible := (s.eligible_iff r).1 (List.find?_some first)
      exact State.Decides.replayable (x := { r with selected := true }) decides found cycle eligible
  | issue r g c w t mem selected waits found cycle decides =>
    rcases hs with idle | ⟨x, hx, hsel, he⟩
    · rw [waits] at idle
      cases idle
    · exact .inr ⟨x, decides.queue_eq.symm ▸ hx, hsel, decides.replayable found cycle he⟩
  | take j k line ptr g c free work found life cycle =>
    rcases hs with idle | ⟨x, hx, hsel, he⟩
    · refine .inl ?_
      have not : ¬ s.replayDemands k line = true := fun hd => by
        have waits := ((s.replayDemands_iff k line).1 hd).1
        rw [idle] at waits
        cases waits
      show (if s.replayDemands k line = true then _ else s.replay) = _
      rw [if_neg not, idle]
    · exact .inr ⟨x, hx, hsel, State.replayable_of_set he found cycle rfl ⟨rfl, rfl, rfl, rfl, id⟩⟩
  | present => exact others rfl (fun _ h => h) fun r _ h => State.replayable_of_core h rfl
  | grantTx port => cases port <;> exact others rfl (fun _ h => h) fun r _ h => State.replayable_of_core h rfl
  | grantEngine => exact others rfl (fun _ h => h) fun r _ h => State.replayable_of_core h rfl
  | grantNothing => exact others rfl (fun _ h => h) fun r _ h => State.replayable_of_core h rfl
  | returns =>
    refine others (s.mapRegions_replay _) (fun r hr => (s.mapRegions_queue _).symm ▸ hr) fun r _ h => ?_
    obtain ⟨g, hg, hl, hrest⟩ := h
    exact ⟨g, by rw [Option.mem_def, State.region?_returns, hg, Option.map_some, Region.returnIf_of_active hl], hl, hrest⟩
  | endReset => exact others rfl (fun _ h => h) fun r _ h => State.replayable_of_core h rfl
  | commit => exact others rfl (fun _ h => h) fun r _ h => State.replayable_of_core h rfl

/-! ### A RETIRING region without work -/

/-- Nothing waits for region `k`, and what of it is in flight in `t` is what was in flight in `s`: its record is the RETIRING `g₀`, or
returned with nothing in flight. -/
structure State.RetiresTo (s : State) (k : SlotNo) (g₀ : Region) (t : State) : Prop where
  idle : t.IdleAt k
  follows : s.Follows t
  slots : ∀ (j : Fin 4) y, t.slots[j] = .copying y → s.slots[j] = .copying y ∨ y.region ≠ k
  finishing : ∀ (j : Fin 4) r ph, t.slots[j] = .finishing r ph → s.slots[j] = .finishing r ph
  replay : ∀ r w, t.replay = .issued r w → s.replay = .issued r w ∨ r ≠ k
  record : t.region? k = some g₀ ∨ (s.nothingLeft k = true ∧ t.region? k = some g₀.returned)

theorem inTracker_congr {l l' : List Tx} (h : l.map Tx.region = l'.map Tx.region) (k : SlotNo) : inTracker l k = inTracker l' k := by
  have mapped : ∀ l : List Tx, inTracker l k = (l.map Tx.region).any (· == some k) := fun l => by rw [inTracker, List.any_map]; rfl
  rw [mapped, mapped, h]

theorem State.nothingLeft_congr (hp : t.pTracker.map Tx.region = s.pTracker.map Tx.region)
    (hs : t.sTracker.map Tx.region = s.sTracker.map Tx.region) (hc : ∀ j : Fin 4, (t.slots[j]).keeps k = (s.slots[j]).keeps k)
    (hr : t.replay.isOf k = s.replay.isOf k) : t.nothingLeft k = s.nothingLeft k := by
  have mapped : ∀ u : State, u.slots.toList.any (·.keeps k) = (List.ofFn fun j : Fin 4 => (u.slots[j]).keeps k).any id := fun u => by
    have listed : u.slots.toList = List.ofFn fun j : Fin 4 => u.slots[j] := by
      refine List.ext_getElem (by simp) fun n h h' => ?_
      rw [List.getElem_ofFn, Vector.getElem_toList]
      rfl
    have anyId : ∀ l : List CopySlot, l.any (·.keeps k) = (l.map (·.keeps k)).any id := fun l => by rw [List.any_map]; rfl
    rw [listed, anyId, List.map_ofFn]
    rfl
  rw [State.nothingLeft, State.nothingLeft, inTracker_congr hp, inTracker_congr hs, hr, mapped, mapped]
  simp only [hc]

theorem CopySlot.keeps_iff (x : CopySlot) : x.keeps k = true ↔ (∃ y, x = .copying y ∧ y.region = k) ∨ ∃ ph, x = .finishing k ph := by
  cases x with
  | free => simp [CopySlot.keeps]
  | copying y => simp [CopySlot.keeps]
  | finishing r ph =>
    rw [CopySlot.keeps, beq_iff_eq]
    constructor
    · rintro rfl
      exact .inr ⟨ph, rfl⟩
    · rintro (⟨y, hy, -⟩ | ⟨ph', hy⟩) <;> cases hy
      rfl

theorem State.RetiresTo.nothingLeft {g₀ : Region} (h : s.RetiresTo k g₀ t) : t.nothingLeft k = s.nothingLeft k := by
  obtain ⟨-, follows, slots, finishing, replay, -⟩ := h
  refine State.nothingLeft_congr follows.pRegions follows.sRegions (fun j => ?_) ?_
  · rw [Bool.eq_iff_iff, CopySlot.keeps_iff, CopySlot.keeps_iff]
    constructor
    · rintro (⟨y, hy, hk⟩ | ⟨ph, hy⟩)
      · exact .inl ⟨y, (slots j y hy).resolve_right fun h => h hk, hk⟩
      · exact .inr ⟨ph, finishing j k ph hy⟩
    · rintro (⟨y, hy, hk⟩ | ⟨ph, hy⟩)
      · exact .inl ⟨y, (follows.slots j (by rw [hy]; nofun)).trans hy, hk⟩
      · exact .inr ⟨ph, (follows.slots j (by rw [hy]; nofun)).trans hy⟩
  · cases hr : t.replay with
    | issued r w =>
      rcases replay r w hr with hs | hne
      · rw [hs]
      · cases hs : s.replay with
        | issued r' w' =>
          rw [follows.issued r' w' hs] at hr
          rw [hr]
        | idle => simpa [Replay.isOf] using hne
        | waiting w' => simpa [Replay.isOf] using hne
    | idle =>
      cases hs : s.replay with
      | issued r w => rw [follows.issued r w hs] at hr; cases hr
      | idle => rfl
      | waiting => rfl
    | waiting w' =>
      cases hs : s.replay with
      | issued r w => rw [follows.issued r w hs] at hr; cases hr
      | idle => rfl
      | waiting => rfl

theorem State.Decides.replay_issued {r : QRecord} (h : s.Decides r g c t) {j : SlotNo} {w : MRequest} (hw : t.replay = .issued j w) :
    j = r.region := by
  cases h with
  | issue =>
    cases hw
    rfl
  | copying => cases hw
  | demand => cases hw
  | read => cases hw

theorem State.Decides.slots_eq {r : QRecord} (h : s.Decides r g c t) : t.slots = s.slots := by
  cases h <;> rfl

/-- What an act does to slots and replay unit: it fills a slot with a line of an ACTIVE region, or issues a queued record. -/
theorem State.Act.engine_cases (h : s.Act t) :
    (∀ j : Fin 4, t.slots[j] = s.slots[j] ∨ ∃ y g, t.slots[j] = .copying y ∧ s.region? y.region = some g ∧ g.life = .active) ∧
    ∀ j w, t.replay = .issued j w → s.replay = .issued j w ∨ ∃ r ∈ s.queue, r.region = j := by
  have same : t.slots = s.slots → t.replay = s.replay →
      (∀ j : Fin 4, t.slots[j] = s.slots[j] ∨ ∃ y g, t.slots[j] = .copying y ∧ s.region? y.region = some g ∧ g.life = .active) ∧
      ∀ j w, t.replay = .issued j w → s.replay = .issued j w ∨ ∃ r ∈ s.queue, r.region = j := fun hs hr =>
    ⟨fun j => .inl (by rw [hs]), fun j w hw => .inl (hr ▸ hw)⟩
  cases h with
  | same => exact same rfl rfl
  | controllers => exact same (s.mapRegions_slots _) (s.mapRegions_replay _)
  | releaseWrite => exact same rfl rfl
  | releasePost => exact same rfl rfl
  | releaseRead => exact same rfl rfl
  | select r g c t first idle found cycle decides =>
    have slots := decides.slots_eq
    exact ⟨fun j => .inl (by rw [slots]), fun j w hw => .inr ⟨r, List.mem_of_find?_eq_some first, (decides.replay_issued hw).symm⟩⟩
  | issue r g c w t mem selected waits found cycle decides =>
    have slots := decides.slots_eq
    exact ⟨fun j => .inl (by rw [slots]), fun j w hw => .inr ⟨r, mem, (decides.replay_issued hw).symm⟩⟩
  | take j k line ptr g c free work found life =>
    refine ⟨fun j' => ?_, fun i w hw => .inl ?_⟩
    · by_cases hj : j = j'
      · subst hj
        exact .inr ⟨_, g, Vector.getElem_set_self .., found, life⟩
      · have other : j.val ≠ j'.val := fun e => hj (Fin.ext e)
        exact .inl (by simp [other])
    · have hw : (if s.replayDemands k line = true then .waiting .copying else s.replay) = .issued i w := hw
      split at hw
      · cases hw
      · exact hw
  | present => exact same rfl rfl
  | grantTx port => cases port <;> exact same rfl rfl
  | grantEngine => exact same rfl rfl
  | grantNothing => exact same rfl rfl
  | returns => exact same (s.mapRegions_slots _) (s.mapRegions_replay _)
  | endReset => exact same rfl rfl
  | commit => exact same rfl rfl

theorem State.Act.retiresTo {g₀ : Region} {v : State} (h : t.Act v) (life : g₀.life = .retiring) (hs : s.RetiresTo k g₀ t) :
    s.RetiresTo k g₀ v := by
  have left := hs.nothingLeft
  obtain ⟨idle, follows, slots, finishing, replay, record⟩ := hs
  obtain ⟨slots', replay'⟩ := h.engine_cases
  have inactive : ∀ g, t.region? k = some g → g.life ≠ .active := fun g hg => by
    rcases record with record | ⟨-, record⟩ <;> rw [record] at hg <;> cases hg
    · simp [life]
    · exact nofun
  have goes : ∀ g, t.region? k = some g → v.region? k = some g ∨ v.region? k = some (g.returnIf (t.nothingLeft k)) := fun g hg => by
    obtain ⟨g', hg', rfl | lends | rfl | rfl⟩ := h.region_of_idle idle hg
    · exact .inl hg'
    · cases lends with
      | line c n active => exact absurd active (inactive g hg)
    · have off : g.life ≠ .active ∨ g.cycle = none := .inl (inactive g hg)
      rw [(Region.controllers_of_not off _ _).2, (Region.controllers_of_not off _ _).1] at hg'
      exact .inl hg'
    · exact .inr hg'
  refine ⟨h.idleAt idle, follows.trans h.follows, fun j y hy => ?_, fun j r ph hy => ?_, fun r w hw => ?_, ?_⟩
  · rcases slots' j with e | ⟨x, g, e, hg, hl⟩
    · exact slots j y (e ▸ hy)
    · rw [e] at hy
      cases hy
      exact .inr fun hk => inactive g (hk ▸ hg) hl
  · rcases slots' j with e | ⟨x, g, e, -⟩
    · exact finishing j r ph (e ▸ hy)
    · rw [e] at hy
      cases hy
  · rcases replay' r w hw with hw | ⟨x, hx, rfl⟩
    · exact replay r w hw
    · exact .inr (idle.queue x hx)
  · rcases record with record | ⟨nothing, record⟩
    · rcases goes g₀ record with e | e
      · exact .inl e
      · rcases g₀.returnIf_cases (t.nothingLeft k) with ⟨same, -⟩ | ⟨-, nothing, same⟩ <;> rw [same] at e
        · exact .inl e
        · exact .inr ⟨left ▸ nothing, e⟩
    · refine .inr ⟨nothing, ?_⟩
      rcases goes _ record with e | e
      · exact e
      · have fixed : g₀.returned.returnIf (t.nothingLeft k) = g₀.returned := if_neg (by simp [Region.returned])
        rwa [fixed] at e

theorem State.RetiresTo.settle {g₀ : Region} (life : g₀.life = .retiring) (hs : s.IdleAt k) (hg : s.region? k = some g₀) :
    s.RetiresTo k g₀ s.settle :=
  State.settle_keeps (P := s.RetiresTo k g₀) (fun _ _ h a => a.retiresTo life h)
    ⟨hs, .refl s, fun _ _ h => .inl h, fun _ _ _ h => h, fun _ _ h => .inl h, .inl hg⟩

/-! ### The ends of a happening, from any state -/

theorem State.nothingLeft_of_same (hp : t.pTracker = s.pTracker) (hs : t.sTracker = s.sTracker) (hc : t.slots = s.slots)
    (hr : t.replay = s.replay) (k : SlotNo) : t.nothingLeft k = s.nothingLeft k :=
  State.nothingLeft_congr (by rw [hp]) (by rw [hs]) (fun _ => by rw [hc]) (by rw [hr])

theorem State.nothingLeft_returns (s : State) (k : SlotNo) : s.returns.nothingLeft k = s.nothingLeft k :=
  State.nothingLeft_of_same (s.mapRegions_pTracker _) (s.mapRegions_sTracker _) (s.mapRegions_slots _) (s.mapRegions_replay _) k

theorem State.nothingLeft_softResetEnd (s : State) (k : SlotNo) : s.softResetEnd.nothingLeft k = s.nothingLeft k := by
  simp only [State.softResetEnd]
  split <;> rfl

theorem State.nothingLeft_commitReady (s : State) (k : SlotNo) : s.commitReady.nothingLeft k = s.nothingLeft k :=
  State.nothingLeft_of_same s.commitReady_pTracker s.commitReady_sTracker s.commitReady_slots s.commitReady_replay k

/-- After the rest of a happening no RETIRING region is without work in flight (R40). -/
theorem State.settle_retiring (hg : s.settle.region? k = some g) (hl : g.life = .retiring) : s.settle.nothingLeft k = false := by
  have last : s.settle.nothingLeft k = s.worked.nothingLeft k := by
    rw [State.settle_eq, State.nothingLeft_commitReady, State.nothingLeft_softResetEnd, State.nothingLeft_returns]
  have record : s.settle.region? k = s.worked.returns.region? k := by
    rw [State.region?, State.region?, State.settle_eq, State.commitReady_table, State.softResetEnd_table]
  rw [record, State.region?_returns, Option.map_eq_some_iff] at hg
  obtain ⟨g₁, -, rfl⟩ := hg
  rw [last, Bool.eq_false_iff]
  intro nothing
  rcases g₁.returnIf_cases (s.worked.nothingLeft k) with ⟨e, h⟩ | ⟨-, -, e⟩ <;> rw [e] at hl
  · exact h nothing hl
  · cases hl

/-! ### RETIRE -/

theorem Region.recordDiscard_eq (g : Region) (n : Nat) :
    g.recordDiscard n = { g with lastDiscard := n, conds := g.conds ||| if n = 0 then 0 else 0x0080 } := by
  simp only [Region.recordDiscard]
  split
  · rename_i h
    simp [h]
  · rfl

theorem State.retireRegion_region? (s : State) (hg : s.region? k = some g) : (s.retireRegion k).region? k =
    some (({ g with life := .retiring } : Region).recordDiscard (s.unissuedRecords k)) := by
  rw [State.region?, s.retireRegion_table k]
  show (s.modRegion k _).region? k = _
  rw [State.region?_modRegion_self, hg]
  rfl

theorem State.retireRegion_slot (s : State) (k : SlotNo) (j : Fin 4) : (s.retireRegion k).slots[j] = (s.markEnding k).slots[j] := by
  simp [State.retireRegion, State.markEnding]

theorem State.retireRegion_slots (s : State) (k : SlotNo) (j : Fin 4) : (∀ y, s.slots[j] = .copying y → y.region = k →
      (s.retireRegion k).slots[j] = .copying { y with ending := true }) ∧
    (s.slots[j] ≠ .free → (s.retireRegion k).slots[j] ≠ .free) := by
  rw [s.retireRegion_slot k j]
  simp only [State.markEnding, Fin.getElem_fin, Vector.getElem_ofFn]
  refine ⟨fun y hy hk => ?_, fun h => ?_⟩
  · simp [hy, hk]
  · split
    · split <;> nofun
    · rename_i e
      exact absurd e h
    · nofun

theorem State.retireRegion_idle (s : State) (k : SlotNo) : (s.retireRegion k).IdleAt k := by
  refine ⟨fun r hr => ?_, fun x hx held => ?_, fun e he => ?_⟩
  · exact bne_iff_ne.1 (List.mem_filter.1 (show r ∈ s.queue.filter fun r => r.region != k from hr)).2
  · exact (mem_of_answered (status := .refused) hx ((Tx.isHeld_iff x).1 held)).2
  · exact bne_iff_ne.1 (List.mem_filter.1 (show e ∈ s.demand.filter fun e => e.region != k from he)).2

theorem State.retireRegion_replay (s : State) (k : SlotNo) :
    (s.retireRegion k).replay = if s.replayWaitsFor k then .idle else s.replay := rfl

theorem State.nothingLeft_retireRegion (s : State) (k : SlotNo) : (s.retireRegion k).nothingLeft k = s.nothingLeft k := by
  refine State.nothingLeft_congr ?_ rfl (fun j => ?_) ?_
  · show (s.pTracker.map fun t => if t.isHeld && t.region == some k then { t with state := .done .refused [] } else t).map Tx.region = _
    rw [List.map_map]
    refine List.map_congr_left fun x _ => ?_
    simp only [Function.comp]
    split <;> rfl
  · rw [s.retireRegion_slot k j]
    simp only [State.markEnding, Fin.getElem_fin, Vector.getElem_ofFn]
    split
    · rename_i y hy
      rw [hy]
      split <;> rfl
    · rename_i hy
      rw [hy]
    · rename_i hy
      rw [hy]
  · rw [State.retireRegion_replay]
    split
    · rename_i h
      obtain ⟨w, hw⟩ := ((s.replayWaitsFor_iff k).1 h).1
      rw [hw]
      rfl
    · rfl

/-- Settles O14. -/
theorem retireResult : Obligations.RetireResult := by
  intro s slot k g hup hk hg hl
  have result : exec (.retire slot) s = .next ((s.retireRegion k).answer 0 .ack []).settle :=
    congrArg Host.Outcome.next (State.recordCommand_of_ok hup hk hg (by simp [hl]) 0 _)
  generalize hu : (s.retireRegion k).answer 0 .ack [] = u at result
  have table : ∀ j, u.region? j = (s.retireRegion k).region? j := fun j => by rw [← hu, State.answer_region?]
  have slots : u.slots = (s.retireRegion k).slots := by rw [← hu, State.answer_slots]
  have replay : u.replay = if s.replayWaitsFor k then .idle else s.replay := by rw [← hu, State.answer_replay, State.retireRegion_replay]
  have queue : u.queue = s.queue.filter fun r => r.region != k := by rw [← hu, State.answer_queue]; rfl
  have tracker : u.pTracker = s.pTracker.map fun t => if t.isHeld && t.region == some k then { t with state := .done .refused [] } else t := by
    rw [← hu, State.answer_pTracker]
    rfl
  have idle : u.IdleAt k := by
    rw [← hu]
    exact (s.retireRegion_idle k).of_same rfl rfl rfl
  have left : u.nothingLeft k = s.nothingLeft k := by
    rw [← hu, ← s.nothingLeft_retireRegion k]
    exact State.nothingLeft_of_same (State.answer_pTracker _ _ _ _) (State.answer_sTracker _ _ _ _) (State.answer_slots _ _ _ _) (State.answer_replay _ _ _ _) k
  have record : u.region? k = some (({ g with life := .retiring } : Region).recordDiscard (s.unissuedRecords k)) :=
    (table k).trans (s.retireRegion_region? hg)
  rw [Region.recordDiscard_eq, ← s.notIssued_eq k] at record
  have retires := State.RetiresTo.settle (g₀ := { g with
    life := .retiring, lastDiscard := s.notIssued k, conds := g.conds ||| if s.notIssued k = 0 then 0 else 0x0080 }) rfl idle record
  have ends := retires.nothingLeft
  obtain ⟨idle', follows, -, -, -, final⟩ := retires
  have reply : u.settle.reply = answerOf 3 .ack := (State.settle_reply u).trans (by rw [← hu]; rfl)
  have nothing_iff : s.nothingInFlight k ↔ u.nothingLeft k = true := by rw [left, State.nothingLeft_iff]
  have free : (∃ r ∈ s.queue, r.selected = true ∧ r.region = k) → ∀ reason, s.replay = .waiting reason → u.replay = .idle :=
    fun hr reason hw => by rw [replay, if_pos ((s.replayWaitsFor_iff k).2 ⟨⟨reason, hw⟩, hr⟩)]
  have rest : (∀ r ∈ u.settle.queue, r.region ≠ k) ∧ (∀ e ∈ u.settle.demand, e.region ≠ k) ∧
      (s.queue.filter (·.region != k)).map (fun r => { r with selected := false }) <+:
        u.settle.queue.map (fun r => { r with selected := false }) ∧
      (∀ x ∈ s.pTracker, x.isHeld = true → x.region = some k → { x with state := .done .refused [] } ∈ u.settle.pTracker) ∧
      (∀ (j : Fin 4) x, s.slots[j] = .copying x → x.region = k → u.settle.slots[j] = .copying { x with ending := true }) ∧
      (∀ k' w, s.replay = .issued k' w → u.settle.replay = .issued k' w) ∧
      ∀ reason, s.replay = .waiting reason →
        ((∃ r ∈ s.queue, r.selected = true ∧ r.region = k) →
          u.settle.replay = .idle ∨ ∃ r ∈ u.settle.queue, r.selected = true ∧ u.settle.replayable r) ∧
        ((∀ r ∈ s.queue, r.selected = true → r.region ≠ k) → u.settle.replay ≠ .idle) := by
    refine ⟨idle'.queue, idle'.demand, queue ▸ follows.queue, fun x hx held hxk => ?_, fun j x hx hxk => ?_, fun k' w hw => ?_,
      fun reason hw => ⟨fun hr => ?_, fun hr => ?_⟩⟩
    · refine follows.done _ ?_ .refused [] rfl
      rw [tracker]
      exact List.mem_map.2 ⟨x, hx, if_pos (by rw [held, hxk, Bool.true_and, beq_self_eq_true])⟩
    · have slot : u.slots[j] = .copying { x with ending := true } := by rw [slots, (s.retireRegion_slots k j).1 x hx hxk]
      rw [follows.slots j (by rw [slot]; nofun), slot]
    · refine follows.issued k' w ?_
      rw [replay, if_neg fun h => ?_, hw]
      obtain ⟨w', hw'⟩ := ((s.replayWaitsFor_iff k).1 h).1
      rw [hw] at hw'
      cases hw'
    · exact State.settle_keeps (fun _ _ h a => a.selectsEligible h) (P := State.selectsEligible) (.inl (free hr reason hw))
    · refine follows.busy ?_
      rw [replay, if_neg fun h => ?_, hw]
      · nofun
      · obtain ⟨r, hm, hs, hk⟩ := ((s.replayWaitsFor_iff k).1 h).2
        exact hr r hm hs hk
  rcases final with final | ⟨nothing, final⟩
  · refine ⟨_, _, result, reply, final, fun _ => ⟨rfl, rfl, rfl, rfl, fun c hc c' hc' => ?_⟩, fun nothing => ?_, rfl, rfl, rfl, rfl, rest⟩
    · cases hc.symm.trans hc'
      exact ⟨rfl, rfl, rfl, rfl⟩
    · have busy := State.settle_retiring final rfl
      rw [ends, nothing_iff.1 nothing] at busy
      cases busy
  · exact ⟨_, _, result, reply, final, fun h => absurd (nothing_iff.2 nothing) h, fun _ => ⟨rfl, rfl, rfl, rfl⟩, rfl, rfl, rfl, rfl, rest⟩

end Sys2Proof.Machine
end

section
/-! PROOFS. The rest of a happening in a part without records, cycle items and held transactions: the M port alone goes on. Settles O5. -/

namespace Sys2Proof.Machine

variable {s t u : State} {i : Instr} {k : SlotNo} {g g' : Region} {c c' : Cycle}

/-- Nothing is left for controllers, hold, replay unit, copy slots and returns to do. -/
structure State.Still (s : State) : Prop where
  cycles : ∀ k, s.cycle? k = none
  lives : ∀ k g, s.region? k = some g → g.life ≠ .retiring
  held : ∀ x ∈ s.pTracker, x.isHeld = false
  queue : s.queue = []

theorem State.Still.of_same (h : s.Still) (ht : t.table = s.table) (hp : t.pTracker = s.pTracker) (hq : t.queue = s.queue) : t.Still := by
  obtain ⟨cycles, lives, held, queue⟩ := h
  have region : ∀ k, t.region? k = s.region? k := fun k => by rw [State.region?, ht, State.region?]
  exact ⟨fun k => (State.cycle?_of_table ht k).trans (cycles k), fun k g hg => lives k g (region k ▸ hg), hp ▸ held, hq.trans queue⟩

theorem State.Still.cycle_eq_none (h : s.Still) (hg : s.region? k = some g) : g.cycle = none := State.cycle?_of_some hg ▸ h.cycles k

theorem State.Still.controllers (h : s.Still) : s.controllers = s :=
  s.mapRegions_fixed _ fun k g hg => by
    have off : g.life ≠ .active ∨ g.cycle = none := .inr (h.cycle_eq_none hg)
    rw [(Region.controllers_of_not off _ _).2, (Region.controllers_of_not off _ _).1]

theorem State.Still.holdRelease (h : s.Still) : s.holdRelease = s := by
  rcases s.holdRelease_cases with e | ⟨x, k, g, c, reason, age, limit, hx, -⟩
  · exact e
  · rw [s.heldTx_eq_none_iff.2 h.held] at hx
    cases hx

theorem State.Still.replayAdvance (h : s.Still) : s.replayAdvance = s := by
  simp only [State.replayAdvance]
  split
  · rcases s.replaySelect_cases with e | ⟨r, hr, -⟩
    · exact e
    · rw [h.queue] at hr
      cases hr
  · rcases s.replayIssue_cases with e | ⟨r, hr, -⟩
    · exact e
    · rw [h.queue] at hr
      cases hr
  · rfl

theorem State.Still.copyTake (h : s.Still) : s.copyTake = s := by
  rcases s.copyTake_cases with e | ⟨j, k, line, ptr, -, -, work, -⟩
  · exact e
  · obtain ⟨g, c, hg, -, hc, -⟩ := s.region_of_isWork work
    rw [h.cycle_eq_none hg] at hc
    cases hc

theorem State.Still.engineActs (h : s.Still) : s.engineActs = s.enginePresent := by
  rw [State.engineActs, h.replayAdvance, State.copyTakes, h.copyTake, h.copyTake, h.copyTake, h.copyTake]

theorem State.Still.returns (h : s.Still) : s.returns = s :=
  s.mapRegions_fixed _ fun k g hg => (g.returnIf_cases (s.nothingLeft k)).elim (fun e => e.1) fun e => absurd e.1 (h.lives k g hg)

theorem State.enginePresent_eq (s : State) : ∃ e, s.enginePresent = { s with presented := e } ∧
    ∀ x ∈ e, x ∈ s.presented ∨ x ∈ s.ready ++ s.readyNow := by
  simp only [State.enginePresent]
  split
  · exact ⟨s.presented, rfl, fun x hx => .inl hx⟩
  · refine ⟨s.firstReady, rfl, fun x hx => .inr ?_⟩
    rw [State.firstReady, Option.mem_def, Option.or_eq_some_iff] at hx
    rcases hx with hx | ⟨-, hx⟩
    · exact List.mem_of_find?_eq_some hx
    · exact List.mem_of_mem_head? hx

/-- The M port of a part whose blocks are still: at most one request of the replay unit is granted. -/
structure State.PortOnly (s t : State) : Prop where
  eq : t = { s with
    ready := t.ready, readyNow := t.readyNow, presented := t.presented, mRequest := t.mRequest, outstanding := t.outstanding
    pPassed := t.pPassed, cPassed := t.cPassed }
  sent : t.outstanding = s.outstanding ∨ ∃ k w, s.replay = .issued k w ∧
    t.outstanding = s.outstanding ++ [{ owner := .engine .replay, kind := w.kind, length := w.length }]
  pPassed : s.pPassed = 0 → t.pPassed = 0
  cPassed : s.cPassed = 0 → t.cPassed = 0

theorem State.Still.worked (h : s.Still) (p : ∀ x ∈ s.pTracker, x.state ≠ .accepted) (sp : ∀ x ∈ s.sTracker, x.state ≠ .accepted)
    (ready : ∀ e ∈ s.ready ++ s.readyNow, e = .replay) (presented : ∀ e ∈ s.presented, e = .replay) : s.PortOnly s.worked := by
  obtain ⟨e, he, from_⟩ := s.enginePresent_eq
  have first : s.beforeGrant = { s with presented := e } := by
    rw [State.beforeGrant, h.controllers, h.holdRelease, h.engineActs, he]
  have replay : ∀ x ∈ e, x = .replay := fun x hx => (from_ x hx).elim (presented x) (ready x)
  generalize hv : ({ s with presented := e } : State) = v at first
  have still : v.Still := by
    subst hv
    exact h.of_same rfl rfl rfl
  have noP : v.presents .p = none := by
    subst hv
    exact (State.presents_eq_none_iff _ _).2 p
  have noS : v.presents .s = none := by
    subst hv
    exact (State.presents_eq_none_iff _ _).2 sp
  have granted : s.PortOnly v.grant ∧ v.grant.Still := by
    have counts : ∀ x, v.grantee = some x → (v.countPassed x).pPassed = 0 ∧ (v.countPassed x).cPassed = 0 := fun x hx => by
      obtain ⟨-, -, onP, onS, -⟩ := v.grantee_presents hx
      rw [noP] at onP
      rw [noS] at onS
      rw [State.countPassed_pPassed, State.countPassed_cPassed, noP]
      cases x with
      | s => exact nomatch onS rfl
      | p => exact nomatch onP rfl
      | engine => exact ⟨rfl, rfl⟩
    rcases v.grant_cases with e' | ⟨port, x, hx, -⟩ | ⟨x, hx, grantee, e'⟩ | ⟨x, grantee, e'⟩
    · rw [e']
      subst hv
      exact ⟨⟨rfl, .inl rfl, id, id⟩, still⟩
    · cases port
      · rw [noP] at hx
        cases hx
      · rw [noS] at hx
        cases hx
    · obtain ⟨zeroP, zeroC⟩ := counts .engine grantee
      have onReplay : x = .replay := by
        subst hv
        exact replay x hx
      subst onReplay
      rw [e']
      simp only [State.grantEngine]
      split
      · rename_i w hw
        obtain ⟨k, hk⟩ : ∃ k, v.replay = .issued k w := by
          simp only [State.engineRequest, State.countPassed_replay] at hw
          split at hw
          · rename_i k w' hr
            cases hw
            exact ⟨k, hr⟩
          · cases hw
          · cases hw
        obtain ⟨e₂, he₂, -⟩ := (((v.countPassed .engine).withdraw (· == .replay)).sendOut (.engine .replay) w).enginePresent_eq
        rw [he₂]
        subst hv
        exact ⟨⟨rfl, .inr ⟨k, w, hk, rfl⟩, fun _ => zeroP, fun _ => zeroC⟩, still.of_same rfl rfl rfl⟩
      · subst hv
        exact ⟨⟨rfl, .inl rfl, fun _ => zeroP, fun _ => zeroC⟩, still.of_same rfl rfl rfl⟩
    · obtain ⟨zeroP, zeroC⟩ := counts x grantee
      rw [e']
      subst hv
      exact ⟨⟨rfl, .inl rfl, fun _ => zeroP, fun _ => zeroC⟩, still.of_same rfl rfl rfl⟩
  obtain ⟨⟨eq, sent, passedP, passedC⟩, still'⟩ := granted
  obtain ⟨e₃, he₃, -⟩ := v.grant.enginePresent_eq
  rw [State.worked, first, still'.engineActs, he₃]
  exact ⟨by rw [eq], sent, passedP, passedC⟩

theorem State.Still.worked_still (h : s.Still) (ht : s.PortOnly t) : t.Still := by
  rw [ht.eq]
  exact h.of_same rfl rfl rfl

/-! ### SOFTRESET -/

theorem State.still_beginSoftReset (s : State) : s.beginSoftReset.Still := by
  refine ⟨s.cycle?_beginSoftReset, fun k g hg => ?_, fun x hx => ?_, rfl⟩
  · rw [s.region?_beginSoftReset, Option.map_eq_some_iff] at hg
    obtain ⟨g, -, rfl⟩ := hg
    nofun
  · obtain ⟨y, -, rfl⟩ := List.mem_map.1 (show x ∈ s.pTracker.map Tx.answeredReset from hx)
    rfl

/-- The end of a soft reset is part of the happening that leaves the M port idle (R184). -/
theorem State.softResetEnd_settled (s : State) (soft : s.softReset = true) (conds : s.devConds = 0) :
    (s.softResetEnd.mPortIdle → s.softResetEnd.softReset = false ∧ s.softResetEnd.devConds = 0x1000) ∧
    (¬ s.softResetEnd.mPortIdle → s.softResetEnd.softReset = true ∧ s.softResetEnd.devConds = 0) := by
  by_cases idle : s.mPortIdle
  · have ended : s.softResetEnd = s.endSoftReset := if_pos (by rw [soft, (s.portIdle_iff).2 idle]; rfl)
    rw [ended]
    refine ⟨fun _ => ⟨rfl, ?_⟩, fun h => absurd idle h⟩
    show setKind s.devConds .resetDone = _
    rw [setKind_resetDone, conds]
    rfl
  · have stays : s.softResetEnd = s := if_neg fun h => idle ((s.portIdle_iff).1 (Bool.and_eq_true_iff.1 h).2)
    rw [stays]
    exact ⟨fun h => absurd h idle, fun _ => ⟨soft, conds⟩⟩

theorem State.softResetEnd_eq (s : State) : ∃ soft conds, s.softResetEnd = { s with softReset := soft, devConds := conds } := by
  simp only [State.softResetEnd]
  split
  · exact ⟨_, _, rfl⟩
  · exact ⟨_, _, rfl⟩

/-- Settles O5. -/
theorem softresetResult : Obligations.SoftresetResult := by
  intro s b hup
  have result : exec (.softreset b) s = .next (s.beginSoftReset.answer 0 .ack []).settle :=
    congrArg Host.Outcome.next (s.deviceCommand_of_up 0 _ hup)
  generalize hu : s.beginSoftReset.answer 0 .ack [] = u at result
  have still : u.Still := by
    subst hu
    exact s.still_beginSoftReset.of_same rfl rfl rfl
  have answered : ∀ l : List Tx, ∀ x ∈ l.map Tx.answeredReset, x.state ≠ .accepted := fun l x hx => by
    obtain ⟨y, -, rfl⟩ := List.mem_map.1 hx
    nofun
  have port : u.PortOnly u.worked := by
    refine still.worked ?_ ?_ (fun e he => ?_) fun e he => ?_
    · subst hu
      exact answered s.pTracker
    · subst hu
      exact answered s.sTracker
    · subst hu
      rcases List.mem_append.1 he with he | he <;> exact beq_iff_eq.1 (List.mem_filter.1 he).2
    · subst hu
      have he : e ∈ (if s.presented == some .replay then some EngineReq.replay else none) := he
      split at he
      · exact (Option.some.inj he).symm
      · cases he
  have returned : u.settle = u.worked.softResetEnd.commitReady := by rw [State.settle_eq, (still.worked_still port).returns]
  obtain ⟨eq, sent, passedP, passedC⟩ := port
  have marks : u.worked.softReset = true ∧ u.worked.devConds = 0 := by
    rw [eq]
    subst hu
    exact ⟨rfl, rfl⟩
  obtain ⟨ends, stays⟩ := u.worked.softResetEnd_settled marks.1 marks.2
  have zeroP : u.worked.pPassed = 0 := passedP (by subst hu; rfl)
  have zeroC : u.worked.cPassed = 0 := passedC (by subst hu; rfl)
  obtain ⟨soft, conds, ended⟩ := u.worked.softResetEnd_eq
  rw [returned] at result
  rw [ended] at result ends stays
  generalize u.worked = w at *
  rw [eq] at result ends stays
  generalize w.outstanding = out at *
  subst hu
  have region : ∀ k, s.beginSoftReset.region? k = (s.region? k).map Region.softReset := s.region?_beginSoftReset
  have slot : ∀ j : Fin 4, s.beginSoftReset.slots[j] = s.givenUp j := fun j => by simp [State.beginSoftReset]
  refine ⟨_, result, ⟨rfl, hup.1, rfl, rfl, rfl, rfl, rfl, rfl⟩, rfl, ⟨rfl, rfl⟩, fun k hk => ?_, fun k g hk => ?_,
    ⟨rfl, rfl, rfl, zeroP, zeroC⟩, fun k w hw => ?_, fun hw => ?_, fun j hj => ?_, fun j k ph hj => ?_, fun j x hj => ⟨fun hx => ?_, fun hx => ?_⟩,
    ?_, ends, stays⟩
  · exact (region k).trans (by rw [hk]; rfl)
  · exact (region k).trans (by rw [hk]; rfl)
  · exact congrArg Replay.softReset hw
  · show s.replay.softReset = .idle
    cases hr : s.replay with
    | idle => rfl
    | waiting => rfl
    | issued => rw [hr] at hw; cases hw
  · exact (slot j).trans (by rw [State.givenUp, hj])
  · exact (slot j).trans (by rw [State.givenUp, hj])
  · exact (slot j).trans (by rw [State.givenUp_of_copying hj, if_pos (by simpa using hx)])
  · exact (slot j).trans (by rw [State.givenUp_of_copying hj, if_neg (by simpa using hx)])
  · refine sent.imp id ?_
    rintro ⟨k, w, hw, e⟩
    have hw : s.replay.softReset = .issued k w := hw
    refine ⟨k, w, ?_, e⟩
    cases hr : s.replay with
    | idle => rw [hr] at hw; cases hw
    | waiting => rw [hr] at hw; cases hw
    | issued => rw [hr] at hw; exact hw

end Sys2Proof.Machine
end

section
/-! PROOFS. What the rest of a happening leaves undone in no state: its takes go on until no slot is free or no line is left to take, the
engine presents what is ready, drains end, returns and the end of a soft reset are made. The first half of O51. -/

namespace Sys2Proof.Machine

variable {s t u : State} {i : Instr} {k : SlotNo} {g g' : Region} {c c' : Cycle} {line : Nat}

/-! ### The takes of a happening (R112) -/

/-- No slot is FREE beside catch-up work. -/
def State.takesDone (s : State) : Prop := (∃ j : Fin 4, s.slots[j] = .free) → ∀ k line, ¬ s.catchUp k line

theorem mem_searchOrder (ptr k : SlotNo) : k ∈ searchOrder ptr := by
  obtain ⟨i, hi, -⟩ := distance_searched ptr k
  exact List.mem_map.2 ⟨i, List.mem_finRange i, hi⟩

theorem State.lowestWork_ne_none (h : s.catchUp k line) : s.lowestWork k ≠ none := by
  have work := (s.isWork_iff k line).2 h
  obtain ⟨g, c, hg, -, hc, -, hl⟩ := s.region_of_isWork work
  have inside : line < c.lines.length := (List.getElem?_eq_some_iff.1 hl).1
  have cycle : s.cycle? k = some c := (State.cycle?_of_some hg).trans hc
  simp only [State.lowestWork, cycle]
  intro none
  exact absurd work (List.find?_eq_none.1 none line (List.mem_range.2 inside))

theorem State.roundRobin_ne_none (h : s.catchUp k line) : s.roundRobin ≠ none := by
  intro none
  rw [State.roundRobin, List.findSome?_eq_none_iff] at none
  exact State.lowestWork_ne_none h (Option.map_eq_none_iff.1 (none k (mem_searchOrder s.rrPtr k)))

theorem State.freeSlot_ne_none (h : ∃ j : Fin 4, s.slots[j] = .free) : s.freeSlot ≠ none := by
  obtain ⟨j, hj⟩ := h
  intro none
  exact absurd (beq_iff_eq.2 hj) (List.find?_eq_none.1 none j (List.mem_finRange j))

theorem State.copyTake_of_done (h : s.takesDone) : s.copyTake = s := by
  rcases s.copyTake_cases with e | ⟨j, k, line, ptr, -, free, work, -⟩
  · exact e
  · exact absurd ((s.isWork_iff k line).1 work) (h ⟨j, free⟩ k line)

/-- With a FREE slot and catch-up work a line is taken. -/
theorem State.copyTake_of_work (h : ¬ s.takesDone) : ∃ j k line ptr, s.slots[j] = CopySlot.free ∧ s.isWork k line = true ∧
    s.copyTake = { s with rrPtr := ptr }.takeLine j k line := by
  simp only [State.takesDone, not_forall, not_not] at h
  obtain ⟨free, k, line, work⟩ := h
  simp only [State.copyTake]
  split
  · exact absurd ‹_› (State.freeSlot_ne_none free)
  · rename_i j hj
    have hfree : s.slots[j] = .free := by simpa using List.find?_some hj
    split
    · rename_i e he
      exact ⟨j, e.region, e.line, s.rrPtr, hfree, List.find?_some (p := fun e : DemandEntry => s.isWork e.region e.line) he, rfl⟩
    · split
      · rename_i k' line' hr
        obtain ⟨k'', -, hk⟩ := List.exists_of_findSome?_eq_some hr
        obtain ⟨l, hl, hkl⟩ := Option.map_eq_some_iff.1 hk
        cases hkl
        refine ⟨j, k', line', k', hfree, ?_, rfl⟩
        simp only [State.lowestWork] at hl
        split at hl
        · cases hl
        · exact List.find?_some hl
      · exact absurd ‹_› (State.roundRobin_ne_none work)

theorem State.busySlots_copyTake (h : ¬ s.takesDone) : s.copyTake.busySlots = s.busySlots + 1 := by
  obtain ⟨j, k, line, ptr, free, work, e⟩ := State.copyTake_of_work h
  obtain ⟨g, c, hg, -, hc, -, hl⟩ := s.region_of_isWork work
  have slot : s.slots.toList[j.val]'(by simp) = .free := by simpa using free
  rw [e, State.takeLine_of_work { s with rrPtr := ptr } j hg hc hl]
  simp only [State.busySlots, Vector.toList_set]
  rw [List.countP_set (by simp)]
  simp [slot]

theorem State.takesDone_of_all_busy (h : 4 ≤ s.busySlots) : s.takesDone := by
  rintro ⟨j, hj⟩
  have all : s.slots.toList.countP (· != .free) = s.slots.toList.length := by
    refine le_antisymm List.countP_le_length ?_
    rw [Vector.length_toList]
    exact h
  have := List.countP_eq_length.1 all (s.slots[j]) (by simp [Vector.mem_toList_iff])
  simp [hj] at this

theorem State.takesDone_copyTakes (s : State) : s.copyTakes.takesDone := by
  have step : ∀ u : State, u.copyTake.takesDone ∨ u.copyTake.busySlots = u.busySlots + 1 := fun u => by
    by_cases h : u.takesDone
    · exact .inl ((State.copyTake_of_done h).symm ▸ h)
    · exact .inr (State.busySlots_copyTake h)
  have keeps : ∀ {u : State}, u.takesDone → u.copyTake.takesDone := fun h => (State.copyTake_of_done h).symm ▸ h
  simp only [State.copyTakes]
  rcases step s with h1 | h1
  · exact keeps (keeps (keeps h1))
  rcases step s.copyTake with h2 | h2
  · exact keeps (keeps h2)
  rcases step s.copyTake.copyTake with h3 | h3
  · exact keeps h3
  rcases step s.copyTake.copyTake.copyTake with h4 | h4
  · exact h4
  · exact State.takesDone_of_all_busy (by omega)

/-! ### What an act makes of an ACTIVE region -/

/-- The publish cycle items go on without a change of publish state or generation, with every reader and writer. -/
structure Region.Onward (g : Region) (c : Cycle) (g' : Region) (c' : Cycle) : Prop where
  life : g.life = .active
  cycle : g.cycle = some c
  defn : g'.defn = g.defn
  pub : c'.pub = c.pub
  gen : c'.gen = c.gen
  front : c'.front = c.front
  writers : c'.writers = c.writers
  readers : ∀ b, c.readers b ≤ c'.readers b

/-- The line waits for a copy, or is copied now. -/
def Cycle.lacks (c : Cycle) (n : Nat) : Prop := c.line n = .stale ∨ c.line n = .copying

/-- No line is brought up to date. -/
def Cycle.staysBehind (c c' : Cycle) : Prop := c'.stale = c.stale ∧ ∀ n, c.lacks n → c'.lacks n

theorem Cycle.staysBehind_refl (c : Cycle) : c.staysBehind c := ⟨rfl, fun _ h => h⟩

theorem Cycle.line_set_ne {l : LineState} {n m : Nat} (hl : c'.lines = c.lines.set n l) (h : m ≠ n) : c'.line m = c.line m := by
  simp only [Cycle.line, hl, List.getD_eq_getElem?_getD, List.getElem?_set_ne (Ne.symm h)]

theorem Cycle.line_set_self {l x : LineState} {n : Nat} (hl : c'.lines = c.lines.set n l) (h : c.lines[n]? = some x) : c'.line n = l := by
  have inside : n < c.lines.length := (List.getElem?_eq_some_iff.1 h).1
  simp only [Cycle.line, hl, List.getD_eq_getElem?_getD, List.getElem?_set_self inside, Option.getD_some]

theorem Cycle.staysBehind_dirtied {n : Nat} (h : c.line n = .sync ∨ c.line n = .dirty) : c.staysBehind (c.setLine n .dirty) := by
  cases hold : c.lines[n]? with
  | none => exact (c.setLine_of_none n .dirty hold).symm ▸ c.staysBehind_refl
  | some old =>
    have fresh : old.staleUnit = 0 := by
      rw [c.line_of_some n old hold] at h
      rcases h with rfl | rfl <;> rfl
    have stale : (c.setLine n .dirty).stale = c.stale := by
      rw [c.setLine_of_some n .dirty old hold]
      show c.stale + 0 - old.staleUnit = c.stale
      omega
    refine ⟨stale, fun m hm => ?_⟩
    have other : m ≠ n := by
      rintro rfl
      rcases hm with e | e <;> rw [e] at h <;> simp at h
    rwa [Cycle.lacks, Cycle.line_set_ne (c.setLine_lines n .dirty) other]

theorem Cycle.staysBehind_taken (h : c.lines[line]? = some .stale) : c.staysBehind { c with lines := c.lines.set line .copying } := by
  refine ⟨rfl, fun m hm => ?_⟩
  by_cases e : m = line
  · rw [e]
    exact .inr (Cycle.line_set_self (c := c) rfl h)
  · rwa [Cycle.lacks, Cycle.line_set_ne (c := c) rfl e]

theorem Region.onward_refl (hl : g.life = .active) (hc : g.cycle = some c) : g.Onward c g c :=
  ⟨hl, hc, rfl, rfl, rfl, rfl, rfl, fun _ => le_rfl⟩

theorem Region.onward_setLine (hl : g.life = .active) (hc : g.cycle = some c) (n : Nat) (l : LineState) :
    g.Onward c (g.withCycle (c.setLine n l)) (c.setLine n l) := by
  obtain ⟨pub, -, gen, front, a, b, writers⟩ := c.setLine_keeps n l
  exact ⟨hl, hc, rfl, pub, gen, front, writers, fun x => by cases x <;> simp [Cycle.readers, a, b]⟩

theorem Region.onward_entered (hl : g.life = .active) (hc : g.cycle = some c) (bank : Bank) :
    g.Onward c (g.withCycle (c.enter (.reader bank))) (c.enter (.reader bank)) := by
  cases bank <;> exact ⟨hl, hc, rfl, rfl, rfl, rfl, rfl, fun b => by cases b <;> simp [Cycle.readers, Cycle.enter]⟩

/-- The unit's record of the region is in the queue. -/
def State.selectsOf (s : State) (k : SlotNo) : Prop := ∃ r ∈ s.queue, r.selected = true ∧ r.region = k

/-- The ACTIVE region with cycle items of `t` goes on from one of `s`, and only the replay unit brings a line of it up to date. -/
def State.onwardAt (s t : State) (k : SlotNo) (g' : Region) (c' : Cycle) : Prop :=
  ∃ g c, s.region? k = some g ∧ g.Onward c g' c' ∧ (c.staysBehind c' ∨ t.selectsOf k)

theorem State.onwardAt_of_table (ht : t.table = s.table) (hg : t.region? k = some g') (hl : g'.life = .active)
    (hc : g'.cycle = some c') : s.onwardAt t k g' c' := by
  rw [State.region?, ht] at hg
  exact ⟨g', c', hg, Region.onward_refl hl hc, .inl c'.staysBehind_refl⟩

theorem State.onwardAt_of_set {j : SlotNo} {x y : Region} {a b : Cycle} (hx : s.region? j = some x)
    (on : x.life = .active → x.Onward a y b) (ht : t.table = s.table.set j (some y)) (life : y.life = x.life)
    (hy : y.cycle = some b) (behind : a.staysBehind b ∨ t.selectsOf j) (hg : t.region? k = some g') (hl : g'.life = .active)
    (hc : g'.cycle = some c') : s.onwardAt t k g' c' := by
  rw [State.region?_of_set ht] at hg
  split at hg
  · rename_i e
    subst e
    cases hg
    obtain rfl : b = c' := Option.some.inj (hy.symm.trans hc)
    exact ⟨x, a, hx, on (life ▸ hl), behind⟩
  · exact ⟨g', c', hg, Region.onward_refl hl hc, .inl c'.staysBehind_refl⟩

theorem State.Decides.onward {r : QRecord} (h : s.Decides r g c t) (found : s.region? r.region = some g) (cycle : g.cycle = some c)
    (selects : s.selectsOf r.region) (hg : t.region? k = some g') (hl : g'.life = .active) (hc : g'.cycle = some c') :
    s.onwardAt t k g' c' := by
  cases h with
  | copying => exact State.onwardAt_of_table rfl hg hl hc
  | demand => exact State.onwardAt_of_table rfl hg hl hc
  | read => exact State.onwardAt_of_table rfl hg hl hc
  | issue => exact State.onwardAt_of_set found (fun hl => Region.onward_setLine hl cycle _ _) rfl rfl rfl (.inr selects) hg hl hc

theorem State.Act.onward (h : s.Act t) (hg : t.region? k = some g') (hl : g'.life = .active) (hc : g'.cycle = some c') :
    t = s.controllers ∨ s.onwardAt t k g' c' := by
  cases h with
  | same => exact .inr (State.onwardAt_of_table rfl hg hl hc)
  | controllers => exact .inl rfl
  | releaseWrite x j g c reason age limit held region state found cycle why copied =>
    exact .inr (State.onwardAt_of_set found (fun hl => Region.onward_setLine hl cycle _ _) rfl rfl rfl
      (.inl (Cycle.staysBehind_dirtied copied)) hg hl hc)
  | releasePost => exact .inr (State.onwardAt_of_table rfl hg hl hc)
  | releaseRead x j g c age limit bank held region state found cycle =>
    exact .inr (State.onwardAt_of_set found (fun hl => Region.onward_entered hl cycle bank) rfl rfl rfl
      (.inl (by cases bank <;> exact c.staysBehind_refl)) hg hl hc)
  | select r g c _ first idle found cycle decides =>
    exact .inr (decides.onward found cycle ⟨_, marked_mem_markFirst first, rfl, rfl⟩ hg hl hc)
  | issue r g c w _ mem selected waits found cycle decides =>
    exact .inr (decides.onward found cycle ⟨r, mem, selected, rfl⟩ hg hl hc)
  | take j i line ptr g c free work found life cycle pub stale =>
    have on : g.Onward c (g.withCycle { c with lines := c.lines.set line .copying }) { c with lines := c.lines.set line .copying } :=
      ⟨life, cycle, rfl, rfl, rfl, rfl, rfl, fun b => by cases b <;> exact le_rfl⟩
    exact .inr (State.onwardAt_of_set found (fun _ => on) rfl rfl rfl (.inl (Cycle.staysBehind_taken stale)) hg hl hc)
  | present => exact .inr (State.onwardAt_of_table rfl hg hl hc)
  | grantTx port => exact .inr (State.onwardAt_of_table (by cases port <;> rfl) hg hl hc)
  | grantEngine => exact .inr (State.onwardAt_of_table rfl hg hl hc)
  | grantNothing => exact .inr (State.onwardAt_of_table rfl hg hl hc)
  | returns =>
    rw [State.returns, State.region?_mapRegions, Option.map_eq_some_iff] at hg
    obtain ⟨x, hx, rfl⟩ := hg
    rcases x.returnIf_cases (s.nothingLeft k) with ⟨e, -⟩ | ⟨-, -, e⟩ <;> rw [e] at hl hc ⊢
    · exact .inr ⟨x, c', hx, Region.onward_refl hl hc, .inl c'.staysBehind_refl⟩
    · cases hc
  | endReset => exact .inr (State.onwardAt_of_table rfl hg hl hc)
  | commit => exact .inr (State.onwardAt_of_table rfl hg hl hc)

/-! ### Drains (R87) -/

/-- No ACTIVE region drains without a reader of its draft bank. -/
def State.drained (s : State) : Prop := ∀ k g c, s.region? k = some g → g.life = .active → g.cycle = some c → c.pub = .draining →
  0 < c.readers c.front.other

theorem Cycle.endDrain_pub (c : Cycle) (queue : List QRecord) (k : SlotNo) : (c.endDrain queue k).pub ≠ .draining := by
  simp only [Cycle.endDrain, Cycle.takeSeal]
  split
  · split <;> simp
  · simp

theorem Region.controllers_life (g : Region) (queue : List QRecord) (k : SlotNo) :
    (g.drainEnd queue k).life = g.life ∧ (g.sealedEntry queue k).life = g.life := by
  simp only [Region.drainEnd, Region.sealedEntry]
  constructor <;> split <;> rfl

theorem State.drained_controllers (s : State) : s.controllers.drained := by
  intro k g' c' hg hl hc hp
  rw [State.region?_controllers, Option.map_eq_some_iff] at hg
  obtain ⟨g, hg, rfl⟩ := hg
  obtain ⟨c₁, h₁, step⟩ := Region.sealedEntry_cycle hc
  obtain rfl : c₁ = c' := by
    rcases step with ⟨rfl, -⟩ | ⟨-, -, -, rfl⟩
    · rfl
    · cases hp
  obtain ⟨c₀, h₀, first⟩ := Region.drainEnd_cycle h₁
  rcases first with ⟨rfl, stays⟩ | ⟨-, -, -, rfl⟩
  · rw [(Region.controllers_life _ _ _).2, (Region.controllers_life _ _ _).1] at hl
    exact Nat.pos_of_ne_zero fun none => stays hl ⟨hp, none⟩
  · exact absurd hp (c₀.endDrain_pub _ _)

theorem State.Act.drained (h : s.Act t) (hs : s.drained) : t.drained := by
  intro k g' c' hg hl hc hp
  rcases h.onward hg hl hc with rfl | ⟨g, c, found, on, -⟩
  · exact s.drained_controllers k g' c' hg hl hc hp
  · have before := hs k g c found on.life on.cycle (on.pub ▸ hp)
    rw [on.front]
    exact Nat.lt_of_lt_of_le before (on.readers _)

/-! ### The end of a happening -/

/-- The first conditions of a happening's end follow the controllers and the held transaction. -/
theorem State.settle_keeps_after {P : State → Prop} (keeps : ∀ s t, P s → s.Act t → P t) (h : P s.controllers.holdRelease) : P s.settle :=
  keeps _ _ (keeps _ _ (keeps _ _ (State.engineActs_keeps keeps (keeps _ _ (State.engineActs_keeps keeps h)
    (State.act_grant _))) .returns) (State.act_softResetEnd _)) .commit

theorem State.drained_settle (s : State) : s.settle.drained :=
  State.settle_keeps_after (fun _ _ h act => act.drained h) ((State.act_holdRelease _).drained s.drained_controllers)

/-- After the last presentation only the returns, the end of a soft reset and the ready requests' order are new. -/
theorem State.ended_fields (u : State) : ∃ soft conds, u.returns.softResetEnd.commitReady = { u with
    table := u.returns.table, softReset := soft, devConds := conds, ready := u.ready ++ u.readyNow, readyNow := [] } := by
  obtain ⟨soft, conds, e⟩ := u.returns.softResetEnd_eq
  refine ⟨soft, conds, ?_⟩
  rw [e]
  rfl

theorem State.catchUp_of_returns (h : s.returns.catchUp k line) : s.catchUp k line := by
  obtain ⟨g', hg', hl, c, hc, hrest⟩ := h
  rw [State.returns, State.region?_mapRegions, Option.mem_map] at hg'
  obtain ⟨g, hg, rfl⟩ := hg'
  rcases g.returnIf_cases (s.nothingLeft k) with ⟨e, -⟩ | ⟨-, -, e⟩ <;> rw [e] at hl hc hrest
  · exact ⟨g, hg, hl, c, hc, hrest⟩
  · cases hl

theorem State.takesDone_enginePresent (h : s.takesDone) : s.enginePresent.takesDone := by
  obtain ⟨e, hs, -⟩ := s.enginePresent_eq
  rw [hs]
  exact h

theorem State.takesDone_worked (s : State) : s.worked.takesDone := by
  rw [State.worked, State.engineActs]
  exact State.takesDone_enginePresent (State.takesDone_copyTakes _)

theorem State.takesDone_ended (h : u.takesDone) : u.returns.softResetEnd.commitReady.takesDone := by
  obtain ⟨soft, conds, e⟩ := u.ended_fields
  rw [e]
  rintro ⟨j, free⟩ k line work
  have work' : u.returns.catchUp k line := work
  exact h ⟨j, free⟩ k line (State.catchUp_of_returns work')

theorem State.firstReady_eq_none (h : s.firstReady = none) : s.ready ++ s.readyNow = [] := by
  rw [State.firstReady, Option.or_eq_none_iff] at h
  exact List.head?_eq_none_iff.1 h.2

/-- While the engine presents nothing, nothing is ready. -/
def State.presentsReady (s : State) : Prop := s.presented = none → s.ready ++ s.readyNow = []

theorem State.presentsReady_enginePresent (s : State) : s.enginePresent.presentsReady := by
  intro h
  simp only [State.enginePresent] at h ⊢
  split at h
  · rename_i hp
    rw [hp] at h
    cases h
  · exact State.firstReady_eq_none h

theorem State.presentsReady_worked (s : State) : s.worked.presentsReady := by
  rw [State.worked, State.engineActs]
  exact State.presentsReady_enginePresent _

/-- What the engine presents at the end of a happening it presented after its last acts, when all that was ready was there. -/
theorem State.presentsReady_ended (h : u.presentsReady) : u.returns.softResetEnd.commitReady.presentsReady := by
  obtain ⟨soft, conds, e⟩ := u.ended_fields
  rw [e]
  exact fun none => (List.append_nil _).trans (h none)

theorem State.softReset_ended (h : u.softResetEnd.softReset = true) : u.softResetEnd.portIdle = false := by
  simp only [State.softResetEnd] at h ⊢
  split at h
  · cases h
  · rename_i busy
    rw [if_neg busy]
    simpa [h] using busy

theorem State.softReset_committed (h : u.softResetEnd.commitReady.softReset = true) : u.softResetEnd.commitReady.portIdle = false :=
  State.softReset_ended (u := u) h

/-- The first half of O51: what the rest of a happening leaves undone in no state. -/
theorem State.settle_leaves_nothing (s : State) :
    s.settle.takesDone ∧ s.settle.drained ∧ (∀ k g, s.settle.region? k = some g → g.life = .retiring → s.settle.nothingLeft k = false) ∧
    (s.settle.presented = none → s.settle.ready = []) ∧ s.settle.readyNow = [] ∧
    (s.settle.softReset = true → s.settle.portIdle = false) := by
  refine ⟨?_, s.drained_settle, fun k g hg hl => State.settle_retiring hg hl, ?_, ?_, ?_⟩ <;> rw [s.settle_eq]
  · exact State.takesDone_ended s.takesDone_worked
  · exact fun none => (List.append_eq_nil_iff.1 (State.presentsReady_ended s.presentsReady_worked none)).1
  · rfl
  · exact State.softReset_committed

end Sys2Proof.Machine
end

section
/-! PROOFS. The requests of the engine (Sections 6.3, 9.2): within a happening the ready requests and those that become ready now count
together; every act and every beginning of a happening keeps them exact. -/

namespace Sys2Proof.Machine

variable {s t u : State} {i : Instr} {k : SlotNo} {g g' : Region} {c c' : Cycle} {line : Nat} {e : EngineReq} {p : EngineReq → Bool}

/-! ### How many requests a part of the engine has, and how many it should have -/

/-- The requests that are ready, or become ready in this happening. -/
def State.allReady (s : State) : List EngineReq := s.ready ++ s.readyNow

/-- Requests ready, or granted and not yet answered. -/
def State.calls (s : State) (e : EngineReq) : Nat := s.allReady.count e + s.outstanding.countP fun o => o.owner == .engine e

/-- An ISSUED replay unit and a slot that is not FREE have one request, the others none. -/
def State.callsDue (s : State) (e : EngineReq) : Nat :=
  match e with
  | .replay => if s.replay.isIssued then 1 else 0
  | .slot j => if s.slots[j] = .free then 0 else 1

/-- The request is of a FINISHING slot. -/
def State.finishes (s : State) (e : EngineReq) : Bool :=
  match e with
  | .replay => false
  | .slot j => (s.slots[j]).isFinishing

/-- The part of the engine has the requests it should have, and none is ready while it finishes. -/
structure State.CallFits (s : State) (e : EngineReq) : Prop where
  calls : s.calls e = s.callsDue e
  finishing : s.finishes e = true → e ∉ s.allReady

/-- The engine presents one of its ready requests. -/
def State.presentsOwn (s : State) : Prop := ∀ e, s.presented = some e → e ∈ s.allReady

/-- Every part of the engine has the requests it should have. -/
structure State.Requested (s : State) : Prop where
  own : s.presentsOwn
  fits : ∀ e, s.CallFits e

theorem State.callsDue_le_one (s : State) (e : EngineReq) : s.callsDue e ≤ 1 := by
  cases e <;> simp only [State.callsDue] <;> split <;> omega

theorem State.calls_pos (h : e ∈ s.allReady) : 0 < s.calls e := Nat.add_pos_left (List.count_pos_iff.2 h) _

theorem State.not_ready_of_calls (h : s.calls e = 0) : e ∉ s.allReady := fun mem => (State.calls_pos mem).ne' h

/-- A ready request is the only one of its part. -/
theorem State.CallFits.ready_once (h : s.CallFits e) (mem : e ∈ s.allReady) :
    s.allReady.count e = 1 ∧ (s.outstanding.countP fun o => o.owner == .engine e) = 0 ∧ s.callsDue e = 1 ∧ s.finishes e = false := by
  have some := List.count_pos_iff.2 mem
  have due := s.callsDue_le_one e
  have calls := h.calls
  rw [State.calls] at calls
  exact ⟨by omega, by omega, by omega, Bool.eq_false_iff.2 fun fin => h.finishing fin mem⟩

/-- What the requests of one part depend on. -/
theorem State.CallFits.congr (h : s.CallFits e) (hr : t.allReady.count e = s.allReady.count e)
    (ho : (t.outstanding.countP fun o => o.owner == .engine e) = s.outstanding.countP fun o => o.owner == .engine e)
    (hd : t.callsDue e = s.callsDue e) (hf : t.finishes e = s.finishes e) : t.CallFits e := by
  refine ⟨?_, fun fin mem => ?_⟩
  · rw [State.calls, hr, ho, hd]
    exact h.calls
  · have some := List.count_pos_iff.2 mem
    rw [hr] at some
    exact h.finishing (hf ▸ fin) (List.count_pos_iff.1 some)

/-- What a part of the engine is due depends on its own block alone. -/
theorem State.due_congr (hs : t.slots = s.slots) (hi : t.replay.isIssued = s.replay.isIssued) (e : EngineReq) :
    t.callsDue e = s.callsDue e ∧ t.finishes e = s.finishes e := by
  cases e with
  | replay => exact ⟨by simp only [State.callsDue, hi], rfl⟩
  | slot j => exact ⟨by simp only [State.callsDue, hs], by simp only [State.finishes, hs]⟩

/-- The blocks of the engine and their requests are the same. -/
structure State.SameEngine (s t : State) : Prop where
  ready : t.allReady = s.allReady
  presented : t.presented = s.presented
  outstanding : t.outstanding = s.outstanding
  slots : t.slots = s.slots
  issued : t.replay.isIssued = s.replay.isIssued

theorem State.SameEngine.refl (s : State) : s.SameEngine s := ⟨rfl, rfl, rfl, rfl, rfl⟩

theorem State.SameEngine.trans (h : s.SameEngine t) (h' : t.SameEngine u) : s.SameEngine u :=
  ⟨h'.ready.trans h.ready, h'.presented.trans h.presented, h'.outstanding.trans h.outstanding, h'.slots.trans h.slots,
    h'.issued.trans h.issued⟩

theorem State.sameEngine_mapRegions (s : State) (f : SlotNo → Region → Region) : s.SameEngine (s.mapRegions f) := by
  refine ⟨?_, s.mapRegions_presented f, s.mapRegions_outstanding f, s.mapRegions_slots f, congrArg Replay.isIssued (s.mapRegions_replay f)⟩
  rw [State.allReady, s.mapRegions_ready, s.mapRegions_readyNow, State.allReady]

theorem State.SameEngine.callFits (h : s.SameEngine t) (hs : s.CallFits e) : t.CallFits e := by
  obtain ⟨due, fin⟩ := State.due_congr h.slots h.issued e
  exact hs.congr (by rw [h.ready]) (by rw [h.outstanding]) due fin

theorem State.SameEngine.presentsOwn (h : s.SameEngine t) (hs : s.presentsOwn) : t.presentsOwn := fun e he =>
  h.ready ▸ hs e (h.presented ▸ he)

theorem State.SameEngine.requested (h : s.SameEngine t) (hs : s.Requested) : t.Requested :=
  ⟨h.presentsOwn hs.own, fun e => h.callFits (hs.fits e)⟩

theorem State.SameEngine.calls (h : s.SameEngine t) (e : EngineReq) : t.calls e = s.calls e := by
  rw [State.calls, h.ready, h.outstanding, State.calls]

/-! ### A request becomes ready -/

theorem insertByRank_perm (x : EngineReq) (l : List EngineReq) : (insertByRank x l).Perm (x :: l) := by
  induction l with
  | nil => exact .refl _
  | cons y ys ih =>
    simp only [insertByRank]
    split
    · exact .refl _
    · exact (ih.cons y).trans (.swap x y ys)

/-- A part of the engine that had none gets a request. -/
structure State.GetsReady (s : State) (x : EngineReq) (t : State) : Prop where
  ready : t.allReady.Perm (x :: s.allReady)
  presented : t.presented = s.presented
  outstanding : t.outstanding = s.outstanding
  none : s.calls x = 0
  due : t.callsDue x = 1
  works : t.finishes x = false
  others : ∀ e, e ≠ x → t.callsDue e = s.callsDue e ∧ t.finishes e = s.finishes e

theorem State.allReady_makeReady (x : EngineReq) (hr : t.ready = s.ready) (hn : t.readyNow = insertByRank x s.readyNow) :
    t.allReady.Perm (x :: s.allReady) := by
  rw [State.allReady, hr, hn]
  exact ((insertByRank_perm x s.readyNow).append_left s.ready).trans List.perm_middle

theorem State.GetsReady.fits {x : EngineReq} (h : s.GetsReady x t) (e : EngineReq) (hs : e ≠ x → s.CallFits e) : t.CallFits e := by
  have count : t.allReady.count e = (x :: s.allReady).count e := h.ready.count_eq e
  by_cases hx : e = x
  · subst hx
    refine ⟨?_, fun fin => absurd (fin.symm.trans h.works) (by simp)⟩
    have none := h.none
    rw [State.calls] at none
    rw [State.calls, count, h.outstanding, h.due, List.count_cons_self]
    omega
  · obtain ⟨due, fin⟩ := h.others e hx
    exact (hs hx).congr (by rw [count, List.count_cons_of_ne (Ne.symm hx)]) (by rw [h.outstanding]) due fin

theorem State.GetsReady.own {x : EngineReq} (h : s.GetsReady x t) (hs : s.presentsOwn) : t.presentsOwn := fun e he =>
  h.ready.mem_iff.2 (.tail _ (hs e (h.presented ▸ he)))

theorem State.GetsReady.requested {x : EngineReq} (h : s.GetsReady x t) (hs : s.Requested) : t.Requested :=
  ⟨h.own hs.own, fun e => h.fits e fun _ => hs.fits e⟩

/-! ### The acts of the blocks -/

theorem mem_of_first {l : List EngineReq} (h : (l.find? p).or l.head? = some e) : e ∈ l := by
  rcases Option.or_eq_some_iff.1 h with found | ⟨-, front⟩
  · exact List.mem_of_find?_eq_some found
  · exact List.mem_of_head? front

theorem State.isIssued_taken (s : State) (k : SlotNo) (line : Nat) :
    (if s.replayDemands k line then Replay.waiting .copying else s.replay).isIssued = s.replay.isIssued := by
  split
  · rename_i h
    rw [((s.replayDemands_iff k line).1 h).1]
    rfl
  · rfl

theorem State.Decides.requested {r : QRecord} (h : s.Decides r g c t) (free : s.replay.isIssued = false) (hs : s.Requested) : t.Requested := by
  have waits : ∀ w, (Replay.waiting w).isIssued = s.replay.isIssued := fun _ => free.symm
  cases h with
  | copying => exact State.SameEngine.requested (s := s) ⟨rfl, rfl, rfl, rfl, waits _⟩ hs
  | demand => exact State.SameEngine.requested (s := s) ⟨rfl, rfl, rfl, rfl, waits _⟩ hs
  | read => exact State.SameEngine.requested (s := s) ⟨rfl, rfl, rfl, rfl, waits _⟩ hs
  | issue =>
    refine State.GetsReady.requested (s := s) (x := .replay) ⟨State.allReady_makeReady (s := s) .replay rfl rfl, rfl, rfl, ?_, rfl, rfl, fun e he => ?_⟩ hs
    · rw [(hs.fits .replay).calls, State.callsDue, free]
      rfl
    · cases e with
      | replay => exact absurd rfl he
      | slot j => exact ⟨rfl, rfl⟩

/-- The line of a COPYING slot is of a region in the table. -/
def State.housed (s : State) : Prop := ∀ (j : Fin 4) y, s.slots[j] = .copying y → s.region? y.region ≠ none

/-- A ready request has an M request behind it. -/
theorem State.Requested.engineRequest (h : s.Requested) (hh : s.housed) (mem : e ∈ s.allReady) : s.engineRequest e ≠ none := by
  obtain ⟨-, -, due, works⟩ := (h.fits e).ready_once mem
  cases e with
  | replay =>
    cases hr : s.replay with
    | issued k w => simp [State.engineRequest, hr]
    | idle => simp [State.callsDue, hr, Replay.isIssued] at due
    | waiting w => simp [State.callsDue, hr, Replay.isIssued] at due
  | slot j =>
    cases hj : s.slots[j] with
    | copying y =>
      have found := hh j y hj
      simp only [State.engineRequest, hj]
      exact fun none => found (Option.map_eq_none_iff.1 none)
    | free =>
      simp only [State.callsDue] at due
      rw [if_pos hj] at due
      cases due
    | finishing r ph =>
      simp only [State.finishes, hj] at works
      cases works

/-- The grant of a request makes a ready one an outstanding one. -/
theorem State.Requested.granted (h : s.Requested) (mem : e ∈ s.allReady) (hr : t.allReady = s.allReady.filter fun x => !(x == e))
    (ho : ∃ o : Outstanding, o.owner = .engine e ∧ t.outstanding = s.outstanding ++ [o]) (own : t.presentsOwn) (hs : t.slots = s.slots)
    (hi : t.replay.isIssued = s.replay.isIssued) : t.Requested := by
  obtain ⟨o, owner, ho⟩ := ho
  refine ⟨own, fun x => ?_⟩
  obtain ⟨due, fin⟩ := State.due_congr hs hi x
  by_cases hx : x = e
  · subst hx
    obtain ⟨-, none, one, works⟩ := (h.fits x).ready_once mem
    have gone : x ∉ t.allReady := by simp [hr]
    refine ⟨?_, fun _ => gone⟩
    rw [State.calls, List.count_eq_zero.2 gone, ho, List.countP_append, none, due, one]
    simp [owner]
  · refine (h.fits x).congr ?_ ?_ due fin
    · rw [hr, List.count_filter (by simp [hx])]
    · rw [ho, List.countP_append]
      simp [owner, Ne.symm hx]

theorem State.Requested.sent (h : s.Requested) (hr : t.allReady = s.allReady) (hp : t.presented = s.presented)
    (ho : ∃ (o : Outstanding) (port : Port) (place : Nat), o.owner = .port port place ∧ t.outstanding = s.outstanding ++ [o])
    (hs : t.slots = s.slots) (hi : t.replay.isIssued = s.replay.isIssued) : t.Requested := by
  obtain ⟨o, port, place, owner, ho⟩ := ho
  refine ⟨fun e he => hr ▸ h.own e (hp ▸ he), fun e => ?_⟩
  obtain ⟨due, fin⟩ := State.due_congr hs hi e
  refine (h.fits e).congr (by rw [hr]) ?_ due fin
  rw [ho, List.countP_append]
  simp [owner]

theorem State.Act.requested (h : s.Act t) (hh : s.housed) (hs : s.Requested) : t.Requested := by
  have same : ∀ {v : State}, s.SameEngine v → v.Requested := fun he => he.requested hs
  cases h with
  | same => exact hs
  | controllers => exact same (s.sameEngine_mapRegions _)
  | releaseWrite => exact same ⟨rfl, rfl, rfl, rfl, rfl⟩
  | releasePost => exact same ⟨rfl, rfl, rfl, rfl, rfl⟩
  | releaseRead => exact same ⟨rfl, rfl, rfl, rfl, rfl⟩
  | select r g c _ first idle found cycle decides =>
    have marked : State.Requested { s with queue := markFirst s.eligible s.queue } := same ⟨rfl, rfl, rfl, rfl, rfl⟩
    exact decides.requested (by show s.replay.isIssued = false; rw [idle]; rfl) marked
  | issue r g c w _ mem selected waits found cycle decides => exact decides.requested (by rw [waits]; rfl) hs
  | take j k line ptr g c free work found life cycle pub stale =>
    refine State.GetsReady.requested (s := s) (x := .slot j) ⟨State.allReady_makeReady (s := s) (.slot j) rfl rfl, rfl, rfl, ?_, ?_, ?_, fun e he => ?_⟩ hs
    · rw [(hs.fits (.slot j)).calls, State.callsDue, if_pos free]
    · simp [State.callsDue]
    · simp [State.finishes, CopySlot.isFinishing]
    · cases e with
      | replay => exact ⟨by simp only [State.callsDue, s.isIssued_taken], rfl⟩
      | slot i =>
        have other : j.val ≠ i.val := fun e => he (congrArg EngineReq.slot (Fin.ext e.symm))
        exact ⟨by simp [State.callsDue, other], by simp [State.finishes, other]⟩
  | present none => exact ⟨fun e he => mem_of_first he, fun e => (hs.fits e).congr rfl rfl (by cases e <;> rfl) (by cases e <;> rfl)⟩
  | grantTx port x pPassed cPassed presents can =>
    exact hs.sent (by cases port <;> rfl) (by cases port <;> rfl) ⟨_, port, x.place, rfl, rfl⟩ (by cases port <;> rfl)
      (by cases port <;> rfl)
  | grantEngine e w pPassed cPassed presents request can =>
    exact hs.granted (hs.own e presents) (List.filter_append ..).symm ⟨_, rfl, rfl⟩ (fun x hx => mem_of_first hx) rfl rfl
  | grantNothing e pPassed cPassed presents request => exact absurd request (hs.engineRequest hh (hs.own e presents))
  | returns => exact same (s.sameEngine_mapRegions _)
  | endReset => exact same ⟨rfl, rfl, rfl, rfl, rfl⟩
  | commit => exact same ⟨List.append_nil _, rfl, rfl, rfl, rfl⟩

/-- No record leaves the table. -/
def State.keepsRecords (s t : State) : Prop := ∀ k, s.region? k ≠ none → t.region? k ≠ none

theorem State.keepsRecords_of_table (h : t.table = s.table) : s.keepsRecords t := fun k hk => by
  rwa [State.region?, h]

theorem State.keepsRecords_of_set {j : SlotNo} (h : t.table = s.table.set j (some g)) : s.keepsRecords t := fun k hk => by
  rw [State.region?_of_set h]
  split
  · exact nofun
  · exact hk

theorem State.keepsRecords_mapRegions (s : State) (f : SlotNo → Region → Region) : s.keepsRecords (s.mapRegions f) := fun k hk => by
  rw [State.region?_mapRegions]
  exact fun none => hk (Option.map_eq_none_iff.1 none)

theorem State.keepsRecords_of_chains {r : Region → Region → Prop} (h : State.chains r s t) : s.keepsRecords t := fun k hk => by
  obtain ⟨g, hg⟩ := Option.ne_none_iff_exists'.1 hk
  obtain ⟨g', hg', -⟩ := h.exists_of_some hg
  rw [hg']
  exact nofun

theorem State.Decides.keepsRecords {r : QRecord} (h : s.Decides r g c t) : s.keepsRecords t := by
  cases h with
  | copying => exact State.keepsRecords_of_table rfl
  | demand => exact State.keepsRecords_of_table rfl
  | read => exact State.keepsRecords_of_table rfl
  | issue => exact State.keepsRecords_of_set rfl

theorem State.Act.keepsRecords (h : s.Act t) : s.keepsRecords t := by
  cases h with
  | same => exact fun _ => id
  | controllers => exact s.keepsRecords_mapRegions _
  | releaseWrite => exact State.keepsRecords_of_set rfl
  | releasePost => exact State.keepsRecords_of_table rfl
  | releaseRead => exact State.keepsRecords_of_set rfl
  | select r g c _ first idle found cycle decides => exact decides.keepsRecords
  | issue r g c w _ mem selected waits found cycle decides => exact decides.keepsRecords
  | take => exact State.keepsRecords_of_set rfl
  | present => exact State.keepsRecords_of_table rfl
  | grantTx port => exact State.keepsRecords_of_table (by cases port <;> rfl)
  | grantEngine => exact State.keepsRecords_of_table rfl
  | grantNothing => exact State.keepsRecords_of_table rfl
  | returns => exact s.keepsRecords_mapRegions _
  | endReset => exact State.keepsRecords_of_table rfl
  | commit => exact State.keepsRecords_of_table rfl

theorem State.housed.of_slots (h : s.housed) (hr : s.keepsRecords t)
    (hs : ∀ (j : Fin 4) y, t.slots[j] = .copying y → ∃ y', s.slots[j] = .copying y' ∧ y'.region = y.region) : t.housed := fun j y hy => by
  obtain ⟨y', hy', region⟩ := hs j y hy
  exact hr _ (region ▸ h j y' hy')

theorem State.Act.housed (h : s.Act t) (hs : s.housed) : t.housed := fun j y hy => by
  rcases h.engine_cases.1 j with same | ⟨y', g, taken, found, -⟩
  · exact h.keepsRecords _ (hs j y (same ▸ hy))
  · obtain rfl : y = y' := CopySlot.copying.inj (hy.symm.trans taken)
    exact h.keepsRecords _ (by rw [found]; exact nofun)

theorem State.housed_of_copied (h : s.copied) : s.housed := fun j y hy none => by
  obtain ⟨c, hc, -⟩ := (h y.region).taken j y.line y.source y.target (by rw [hy]; exact CopySlot.on_copying rfl)
  rw [State.cycle?_eq, none] at hc
  cases hc

/-! ### Slots that give their lines up (R124, R128) -/

/-- Requests that satisfy `p` are withdrawn and their slots give their lines up. -/
structure State.Withdraws (s : State) (p : EngineReq → Bool) (t : State) : Prop where
  ready : t.allReady = s.allReady.filter fun e => !p e
  presented : ∀ e, t.presented = some e → s.presented = some e ∧ p e = false
  outstanding : t.outstanding = s.outstanding
  unit : p .replay = false
  issued : t.replay.isIssued = s.replay.isIssued
  slots : ∀ j : Fin 4, t.slots[j] = if p (.slot j) then s.givenUp j else s.slots[j]

theorem State.slotOutstanding_iff (s : State) (j : Fin 4) :
    s.slotOutstanding j = true ↔ 0 < s.outstanding.countP fun o => o.owner == .engine (.slot j) := by
  rw [State.slotOutstanding, List.any_eq_true, List.countP_pos_iff]

/-- A slot that gives its line up keeps the request that is granted, and none else. -/
theorem State.CallFits.givenUp {j : Fin 4} (h : s.CallFits (.slot j)) : (if s.givenUp j = .free then 0 else 1) =
    s.outstanding.countP fun o => o.owner == .engine (.slot j) := by
  have calls := h.calls
  rw [State.calls, State.callsDue] at calls
  cases hj : s.slots[j] with
  | copying y =>
    rw [if_neg (by rw [hj]; exact nofun)] at calls
    have asked := s.slotOutstanding_iff j
    simp only [State.givenUp, hj]
    split
    · rename_i out
      have some := asked.1 out
      rw [if_neg nofun]
      omega
    · rename_i out
      have none := mt asked.2 out
      rw [if_pos rfl]
      omega
  | free =>
    rw [if_pos hj] at calls
    simp only [State.givenUp, hj]
    rw [if_pos trivial]
    omega
  | finishing r ph =>
    have unready : s.allReady.count (.slot j) = 0 := List.count_eq_zero.2 (h.finishing (by simp [State.finishes, hj, CopySlot.isFinishing]))
    rw [if_neg (by rw [hj]; exact nofun), unready] at calls
    simp only [State.givenUp, hj]
    rw [if_neg nofun]
    omega

theorem State.Withdraws.gone (h : s.Withdraws p t) (he : p e = true) : e ∉ t.allReady := by
  rw [h.ready]
  exact fun mem => by simp [he] at mem

theorem State.Withdraws.callFits (h : s.Withdraws p t) (hs : s.CallFits e) : t.CallFits e := by
  by_cases he : p e = true
  · have gone := h.gone he
    refine ⟨?_, fun _ => gone⟩
    cases e with
    | replay => exact absurd (he.symm.trans h.unit) (by simp)
    | slot j =>
      rw [State.calls, List.count_eq_zero.2 gone, h.outstanding, Nat.zero_add, State.callsDue, h.slots j, if_pos he]
      exact hs.givenUp.symm
  · have count : t.allReady.count e = s.allReady.count e := by
      rw [h.ready, List.count_filter (by simpa using he)]
    have due : t.callsDue e = s.callsDue e ∧ t.finishes e = s.finishes e := by
      cases e with
      | replay => exact ⟨by simp only [State.callsDue, h.issued], rfl⟩
      | slot j => exact ⟨by simp only [State.callsDue, h.slots j, if_neg he], by simp only [State.finishes, h.slots j, if_neg he]⟩
    exact hs.congr count (by rw [h.outstanding]) due.1 due.2

theorem State.Withdraws.own (h : s.Withdraws p t) (hs : s.presentsOwn) : t.presentsOwn := fun e he => by
  obtain ⟨before, stays⟩ := h.presented e he
  rw [h.ready]
  exact List.mem_filter.2 ⟨hs e before, by simp [stays]⟩

theorem State.Withdraws.requested (h : s.Withdraws p t) (hs : s.Requested) : t.Requested := ⟨h.own hs.own, fun e => h.callFits (hs.fits e)⟩

theorem State.Withdraws.calls_le (h : s.Withdraws p t) (e : EngineReq) : t.calls e ≤ s.calls e := by
  rw [State.calls, h.ready, h.outstanding, State.calls]
  exact Nat.add_le_add_right (List.filter_sublist.count_le e) _

theorem State.withdraws_fence (s : State) (k : SlotNo) : s.Withdraws (s.slotReqOf k) (s.fence k) := by
  have ready : (s.fence k).ready = s.ready.filter fun e => !s.slotReqOf k e := rfl
  have readyNow : (s.fence k).readyNow = s.readyNow.filter fun e => !s.slotReqOf k e := rfl
  have presented : (s.fence k).presented = if s.presented.any (s.slotReqOf k) then none else s.presented := rfl
  refine ⟨?_, fun e he => ?_, rfl, rfl, ?_, fun j => s.fence_slots k j⟩
  · rw [State.allReady, ready, readyNow, State.allReady, List.filter_append]
  · rw [presented] at he
    split at he
    · cases he
    · rename_i none
      exact ⟨he, by simpa [he] using none⟩
  · rw [s.fence_replay k]
    cases hr : s.replay with
    | idle => rfl
    | issued r w => rfl
    | waiting w =>
      simp only
      split <;> rfl

theorem State.sameEngine_putRegion (s : State) (k : SlotNo) (x : Option Region) : s.SameEngine (s.putRegion k x) := ⟨rfl, rfl, rfl, rfl, rfl⟩

theorem State.Withdraws.after (h : t.Withdraws p u) (hs : s.SameEngine t) : s.Withdraws p u := by
  refine ⟨hs.ready ▸ h.ready, fun e he => hs.presented ▸ h.presented e he, h.outstanding.trans hs.outstanding, h.unit,
    h.issued.trans hs.issued, fun j => ?_⟩
  have out : t.slotOutstanding j = s.slotOutstanding j := by rw [State.slotOutstanding, hs.outstanding, State.slotOutstanding]
  have given : t.givenUp j = s.givenUp j := by rw [State.givenUp, hs.slots, out, State.givenUp]
  rw [h.slots j, given, hs.slots]

/-- A report withdraws the requests of the slots of a region it fences, or none. -/
theorem State.withdraws_reportError (s : State) (k : SlotNo) (third : Bool) : ∃ p, s.Withdraws p (s.reportError k third) := by
  have none : ∀ {v : State}, s.SameEngine v → s.Withdraws (fun _ => false) v := fun h =>
    ⟨by simp [h.ready], fun e he => ⟨h.presented ▸ he, rfl⟩, h.outstanding, rfl, h.issued, fun j => by simp [h.slots]⟩
  rcases s.reportError_cases k third with ⟨-, e⟩ | ⟨g, -, ⟨e, -⟩ | ⟨e, -⟩⟩ <;> rw [e]
  · exact ⟨_, none (.refl s)⟩
  · exact ⟨_, none (s.sameEngine_putRegion k _)⟩
  · exact ⟨_, (State.withdraws_fence _ k).after (s.sameEngine_putRegion k _)⟩

/-! ### The response of a request -/

/-- One part of the engine has no request any more; the others have theirs. -/
structure State.Answered (s : State) (x : EngineReq) : Prop where
  own : s.presentsOwn
  none : s.calls x = 0
  others : ∀ e, e ≠ x → s.CallFits e

theorem State.callFits_of_none (h : s.calls e = 0) (due : s.callsDue e = 0) : s.CallFits e :=
  ⟨h.trans due.symm, fun _ => State.not_ready_of_calls h⟩

theorem State.Answered.requested (h : s.Answered e) (due : s.callsDue e = 0) : s.Requested :=
  ⟨h.own, fun x => if hx : x = e then hx ▸ State.callFits_of_none h.none due else h.others x hx⟩

theorem State.SameEngine.answered (h : s.SameEngine t) (hs : s.Answered e) : t.Answered e :=
  ⟨h.presentsOwn hs.own, (h.calls e).trans hs.none, fun x hx => h.callFits (hs.others x hx)⟩

theorem State.Withdraws.answered (h : s.Withdraws p t) (hs : s.Answered e) : t.Answered e :=
  ⟨h.own hs.own, Nat.le_zero.1 ((h.calls_le e).trans hs.none.le), fun x hx => h.callFits (hs.others x hx)⟩

/-- The oldest outstanding entry is of one part of the engine. -/
theorem State.Requested.answered {o : Outstanding} {rest : List Outstanding} (h : s.Requested) (oldest : s.outstanding = o :: rest)
    (owner : o.owner = .engine e) : State.Answered { s with outstanding := rest } e := by
  refine ⟨h.own, ?_, fun x hx => ?_⟩
  · have due := s.callsDue_le_one e
    have calls := (h.fits e).calls
    rw [State.calls, oldest, List.countP_cons_of_pos (by simp [owner])] at calls
    show s.allReady.count e + rest.countP _ = 0
    omega
  · refine (h.fits x).congr rfl ?_ (by cases x <;> rfl) (by cases x <;> rfl)
    rw [oldest, List.countP_cons_of_neg (by simp [owner, Ne.symm hx])]

theorem State.Requested.dropped {o : Outstanding} {rest : List Outstanding} {port : Port} {place : Nat} (h : s.Requested)
    (oldest : s.outstanding = o :: rest) (owner : o.owner = .port port place) : State.Requested { s with outstanding := rest } := by
  refine ⟨h.own, fun x => (h.fits x).congr rfl ?_ (by cases x <;> rfl) (by cases x <;> rfl)⟩
  rw [oldest, List.countP_cons_of_neg (by simp [owner])]

/-- The answered slot changes: the others keep their requests. -/
theorem State.Answered.setSlot {j : Fin 4} (h : s.Answered (.slot j)) (x : CopySlot) : (s.setSlot j x).Answered (.slot j) := by
  refine ⟨h.own, h.none, fun e he => (h.others e he).congr rfl rfl ?_ ?_⟩ <;> cases e with
  | replay => rfl
  | slot i =>
    have other : j.val ≠ i.val := fun same => he (congrArg EngineReq.slot (Fin.ext same.symm))
    simp [State.callsDue, State.finishes, State.setSlot, other]

theorem State.Answered.freed {j : Fin 4} (h : s.Answered (.slot j)) : (s.setSlot j .free).Requested :=
  (h.setSlot .free).requested (by simp [State.callsDue, State.setSlot])

theorem State.sameEngine_modCycle (s : State) (k : SlotNo) (f : Cycle → Cycle) : s.SameEngine (s.modCycle k f) :=
  s.sameEngine_putRegion k _

/-- The answered slot has its next operation ready. -/
theorem State.Answered.nextReady {j : Fin 4} (h : s.Answered (.slot j)) (y : Copy) :
    ((s.setSlot j (.copying y)).makeReady (.slot j)).Requested := by
  have put := h.setSlot (.copying y)
  have gets : State.GetsReady (s.setSlot j (.copying y)) (.slot j) ((s.setSlot j (.copying y)).makeReady (.slot j)) :=
    ⟨State.allReady_makeReady _ rfl rfl, rfl, rfl, put.none, by simp [State.callsDue, State.makeReady, State.setSlot],
      by simp [State.finishes, State.makeReady, State.setSlot, CopySlot.isFinishing], fun e _ => by cases e <;> exact ⟨rfl, rfl⟩⟩
  exact ⟨gets.own put.own, fun e => gets.fits e (put.others e)⟩

/-- A slot whose line a report has taken is FREE: its request was answered. -/
theorem State.Answered.lost {j : Fin 4} {y : Copy} {third : Bool} (h : s.Answered (.slot j)) (slot : s.slots[j] = .copying y)
    (lost : ∀ x, (s.reportError y.region third).slots[j] ≠ .copying x) : (s.reportError y.region third).Requested := by
  obtain ⟨p, w⟩ := s.withdraws_reportError y.region third
  refine (w.answered h).requested ?_
  have given := w.slots j
  split at given
  · have none : s.slotOutstanding j = false := by
      have out := s.slotOutstanding_iff j
      have calls := h.none
      rw [State.calls] at calls
      exact Bool.eq_false_iff.2 fun yes => by
        have := out.1 yes
        omega
    rw [State.givenUp, slot] at given
    simp only [none, Bool.false_eq_true, if_false] at given
    simp only [State.callsDue]
    rw [if_pos given]
  · exact absurd (given.trans slot) (lost y)

theorem State.sameEngine_portAnswered (s : State) (port : Port) (place : Nat) (status : MStatus) (data : List Word) :
    s.SameEngine (s.portAnswered port place status data) := by
  cases port <;> exact ⟨rfl, rfl, rfl, rfl, rfl⟩

theorem State.Handed.requested_port {port : Port} {place : Nat} (h : s.Handed (.port port place) t) (hs : s.Requested) : t.Requested := by
  have answered := fun status data => (s.sameEngine_portAnswered port place status data).requested hs
  cases h with
  | gone => exact hs
  | answered _ _ status data => exact answered status data
  | unmatched _ _ status data => exact State.SameEngine.requested (s := s.portAnswered port place status data) ⟨rfl, rfl, rfl, rfl, rfl⟩ (answered status data)
  | reported _ _ status data k =>
    obtain ⟨p, w⟩ := (s.portAnswered port place status data).withdraws_reportError k false
    exact w.requested (answered status data)

theorem State.Handed.requested_slot {j : Fin 4} (h : s.Handed (.engine (.slot j)) t) (hs : s.Answered (.slot j)) : t.Requested := by
  cases h with
  | slotFree _ free => exact hs.requested (by simp only [State.callsDue]; rw [if_pos free])
  | slotFinished => exact hs.freed
  | slotEnded _ y => exact (State.sameEngine_modCycle _ y.region _).requested hs.freed
  | slotRead _ y data => exact hs.nextReady _
  | slotCopied _ y => exact (State.sameEngine_modCycle _ y.region _).requested hs.freed
  | slotRetries _ y third slot copying =>
    obtain ⟨p, w⟩ := s.withdraws_reportError y.region third
    exact (w.answered hs).nextReady _
  | slotLost _ y third slot lost => exact hs.lost slot lost

theorem State.Answered.replayDone (h : s.Answered .replay) : s.replayDone.Requested := by
  refine State.Answered.requested (e := .replay) ⟨h.own, h.none, fun e he => (h.others e he).congr rfl rfl ?_ ?_⟩ rfl <;> cases e with
  | replay => exact absurd rfl he
  | slot j => rfl

theorem State.Handed.requested_replay (h : s.Handed (.engine .replay) t) (hs : s.Answered .replay) : t.Requested := by
  cases h with
  | replayFree free => exact hs.requested (by simp only [State.callsDue, free]; rfl)
  | replayDone => exact hs.replayDone
  | replayError k w issued =>
    obtain ⟨p, w⟩ := s.replayDone.withdraws_reportError k false
    exact w.requested hs.replayDone

/-! ### The beginnings of a happening -/

theorem State.sameEngine_addTx (s : State) (port : Port) (req : Request) (region : Option SlotNo) (bank : Option Bank) (phys : Option Nat)
    (state : TxState) (count : Option CountEntry) : s.SameEngine (s.addTx port req region bank phys state count) := by
  cases port <;> exact ⟨rfl, rfl, rfl, rfl, rfl⟩

theorem State.sameEngine_joinDemand (s : State) (who : Requester) (k : SlotNo) (line : Nat) : s.SameEngine (s.joinDemand who k line) := by
  simp only [State.joinDemand]
  split <;> exact ⟨rfl, rfl, rfl, rfl, rfl⟩

theorem State.sameEngine_accept (s : State) (port : Port) (req : Request) (res : Resolution) : s.SameEngine (s.accept port req res) := by
  have joined := s.sameEngine_addTx port req
  cases res with
  | boundary => exact joined none none none (.done .boundary []) none
  | unmatchedRefused => exact (joined none none none (.done .refused []) none).trans ⟨rfl, rfl, rfl, rfl, rfl⟩
  | passed => exact joined none none (some req.addr) .accepted none
  | refused k => exact (joined (some k) none none (.done .refused []) none).trans (State.sameEngine_putRegion _ k _)
  | fenced k => exact joined (some k) none none (.done .fenced []) none
  | issue k bank phys count =>
    refine (joined (some k) (some bank) (some phys) .accepted count).trans ?_
    cases count with
    | none => exact .refl _
    | some e => exact State.sameEngine_modCycle _ k _
  | draftWrite k bank phys line =>
    have demand : ∀ v : State, v.SameEngine (v.undemand k line) := fun _ => ⟨rfl, rfl, rfl, rfl, rfl⟩
    exact ((joined (some k) (some bank) (some phys) .accepted (some .writer)).trans (demand _)).trans (State.sameEngine_modCycle _ k _)
  | holdWrite k reason bank line =>
    have entered := (joined (some k) (some bank) none (s.newHold reason) (some .writer)).trans (State.sameEngine_modCycle _ k (·.enter .writer))
    simp only [State.accept]
    split
    · exact entered.trans (State.sameEngine_joinDemand _ .pPath k line)
    · exact entered
  | holdQueue k => exact joined (some k) none none (s.newHold .queue) none
  | holdOverlap k => exact joined (some k) none none (s.newHold .overlap) none
  | posted k r =>
    have queued : s.SameEngine { s with queue := s.queue ++ [r] } := ⟨rfl, rfl, rfl, rfl, rfl⟩
    exact queued.trans (State.sameEngine_addTx _ port req (some k) none none (.done .okay []) none)

theorem State.sameEngine_leaveCount (s : State) (x : Tx) : s.SameEngine (s.leaveCount x) := by
  rcases s.leaveCount_cases x with ⟨e, -⟩ | ⟨k, v, -, -, e⟩ <;> rw [e]
  · exact .refl s
  · exact s.sameEngine_modCycle k _

theorem State.sameEngine_setTracker (s : State) (port : Port) (l : List Tx) : s.SameEngine (s.setTracker port l) := by
  cases port <;> exact ⟨rfl, rfl, rfl, rfl, rfl⟩

theorem State.sameEngine_modHeld (s : State) (f : Tx → Tx) : s.SameEngine (s.modHeld f) := ⟨rfl, rfl, rfl, rfl, rfl⟩

theorem State.sameEngine_holdExpiry (s : State) : s.SameEngine s.holdExpiry := by
  rcases s.holdExpiry_cases with e | ⟨x, -, -, e | ⟨k, -, e⟩⟩ <;> rw [e]
  · exact .refl s
  · exact s.sameEngine_modHeld _
  · exact (s.sameEngine_modHeld _).trans (State.sameEngine_putRegion _ _ _)

theorem State.sameEngine_aged (s : State) : s.SameEngine { s with timeBase := s.timeBase + 1 }.ageHold := ⟨rfl, rfl, rfl, rfl, rfl⟩

theorem State.isIssued_dropRecords (s : State) (k : SlotNo) : (s.dropRecords k).replay.isIssued = s.replay.isIssued := by
  rw [s.dropRecords_replay]
  split
  · rename_i waits
    obtain ⟨⟨w, hw⟩, -⟩ := (s.replayWaitsFor_iff k).1 waits
    rw [hw]
    rfl
  · rfl

theorem State.markEnding_slot (s : State) (k : SlotNo) (j : Fin 4) :
    ((s.markEnding k).slots[j] = .free ↔ s.slots[j] = .free) ∧ ((s.markEnding k).slots[j]).isFinishing = (s.slots[j]).isFinishing := by
  simp only [State.markEnding, Fin.getElem_fin, Vector.getElem_ofFn]
  cases s.slots[j.val] with
  | copying y =>
    dsimp only
    split <;> exact ⟨by simp, rfl⟩
  | free => exact ⟨by simp, rfl⟩
  | finishing r ph => exact ⟨by simp, rfl⟩

theorem State.Requested.retireRegion (h : s.Requested) (k : SlotNo) : (s.retireRegion k).Requested := by
  have issued : (s.retireRegion k).replay.isIssued = s.replay.isIssued := by
    rw [s.retireRegion_replay, ← s.dropRecords_replay, s.isIssued_dropRecords]
  refine ⟨h.own, fun e => (h.fits e).congr rfl rfl ?_ ?_⟩ <;> cases e with
  | replay => simp only [State.callsDue, State.finishes, issued]
  | slot j => simp only [State.callsDue, State.finishes, s.retireRegion_slot k j, (s.markEnding_slot k j).1, (s.markEnding_slot k j).2]

theorem State.withdraws_beginSoftReset (s : State) : s.Withdraws (· != .replay) s.beginSoftReset := by
  refine ⟨?_, fun e he => ?_, rfl, rfl, ?_, fun j => ?_⟩
  · have same : (fun e : EngineReq => !(e != .replay)) = (· == .replay) := funext fun e => Bool.not_not (e == .replay)
    show s.ready.filter _ ++ s.readyNow.filter _ = (s.ready ++ s.readyNow).filter _
    rw [same, List.filter_append]
  · simp only [State.beginSoftReset] at he
    split at he
    · rename_i hp
      cases he
      exact ⟨by simpa using hp, rfl⟩
    · cases he
  · simp only [State.beginSoftReset]
    cases s.replay <;> rfl
  · simp only [State.beginSoftReset]
    rw [Fin.getElem_fin, Vector.getElem_ofFn]
    rfl

theorem State.requested_hardReset (s : State) (up : Bool) : (s.hardReset up).Requested := by
  refine ⟨nofun, fun e => ⟨?_, fun _ => nofun⟩⟩
  cases e with
  | replay => rfl
  | slot j => simp [State.callsDue, State.hardReset, State.reset, State.calls, State.allReady]

theorem State.Begun.requested (h : s.Begun t) (hs : s.Requested) : t.Requested := by
  have same : ∀ {v : State}, s.SameEngine v → v.Requested := fun he => he.requested hs
  cases h with
  | same => exact hs
  | linked => exact same ⟨rfl, rfl, rfl, rfl, rfl⟩
  | accepted port req => exact same (s.sameEngine_accept port req _)
  | taken port x rest => exact same ((s.sameEngine_setTracker port rest).trans (State.sameEngine_leaveCount _ x))
  | aged => exact same (s.sameEngine_aged.trans (State.sameEngine_holdExpiry _))
  | expired => exact same s.sameEngine_holdExpiry
  | memoryTakes => exact same ⟨rfl, rfl, rfl, rfl, rfl⟩
  | handed o rest _ oldest hands =>
    obtain ⟨owner, kind, length⟩ := o
    match owner with
    | .port port place => exact hands.requested_port (hs.dropped oldest rfl)
    | .engine (.slot j) => exact hands.requested_slot (hs.answered oldest rfl)
    | .engine .replay => exact hands.requested_replay (hs.answered oldest rfl)
  | sealEntered k => exact same (s.sameEngine_putRegion k _)
  | drainEnded k => exact same (s.sameEngine_putRegion k _)
  | returned k => exact same (s.sameEngine_putRegion k _)
  | seals => exact same (s.sameEngine_mapRegions _)
  | epoch => exact same (s.sameEngine_mapRegions _)
  | defined _ k => exact same (s.sameEngine_putRegion k _)
  | undefined k => exact same (s.sameEngine_putRegion k _)
  | activated _ k => exact same (s.sameEngine_putRegion k _)
  | retired k => exact hs.retireRegion k
  | revived k => exact same (s.sameEngine_putRegion k _)
  | items k => exact same (s.sameEngine_putRegion k _)
  | policy => exact same ⟨rfl, rfl, rfl, rfl, rfl⟩
  | softReset => exact s.withdraws_beginSoftReset.requested hs
  | hardReset up => exact s.requested_hardReset up

/-! ### Between two happenings -/

/-- Between two happenings nothing has become ready now, and all of it is in the statement's words. -/
theorem State.requestsAgree_iff (s : State) : s.requestsAgree ↔ s.Requested ∧ s.readyNow = [] := by
  have all : s.readyNow = [] → s.allReady = s.ready := fun none => by rw [State.allReady, none, List.append_nil]
  have calls : s.readyNow = [] → ∀ e, s.calls e = s.requestsOf e := fun none e => by
    rw [State.calls, all none, State.requestsOf]
    rfl
  constructor
  · rintro ⟨none, own, unit, slots⟩
    refine ⟨⟨fun e he => all none ▸ own e he, fun e => ?_⟩, none⟩
    cases e with
    | replay => exact ⟨(calls none .replay).trans unit, nofun⟩
    | slot j => exact ⟨(calls none (.slot j)).trans (slots j).1, fun fin => all none ▸ (slots j).2 fin⟩
  · rintro ⟨⟨own, fits⟩, none⟩
    refine ⟨none, fun e he => all none ▸ own e he, (calls none .replay).symm.trans (fits .replay).calls, fun j => ?_⟩
    exact ⟨(calls none (.slot j)).symm.trans (fits (.slot j)).calls, fun fin => all none ▸ (fits (.slot j)).finishing fin⟩

end Sys2Proof.Machine
end

section
/-! PROOFS. What the rest of a happening leaves undone in no ordered state: SEAL_WAIT regions that are ready, holds whose reason has
passed, records that could be replayed, grants that could be taken. Between two happenings the part is at rest. -/

namespace Sys2Proof.Machine

variable {s t u : State} {i : Instr} {k : SlotNo} {g g' : Region} {c c' : Cycle} {r x : QRecord}

/-! ### Records of the queue, but for their marks -/

theorem QRecord.unmarked_eq_iff : x.unmarked = r.unmarked ↔ x = { r with selected := x.selected } := by
  obtain ⟨region, target, line, first, count, enables, data, selected⟩ := x
  obtain ⟨region', target', line', first', count', enables', data', selected'⟩ := r
  simp [QRecord.unmarked]

theorem QRecord.fields_of_unmarked (h : x.unmarked = r.unmarked) : x.region = r.region ∧ x.target = r.target ∧ x.line = r.line := by
  rw [QRecord.unmarked_eq_iff.1 h]
  exact ⟨rfl, rfl, rfl⟩

theorem State.Follows.mem_queue (h : s.Follows t) (hr : r ∈ s.queue) : ∃ x ∈ t.queue, x.unmarked = r.unmarked := by
  obtain ⟨x, hx, e⟩ := List.mem_map.1 (h.queue.subset (List.mem_map_of_mem hr))
  exact ⟨x, hx, e⟩

theorem State.Follows.queue_length (h : s.Follows t) : s.queue.length ≤ t.queue.length := by
  simpa using h.queue.length_le

theorem sharesByte_congr {d : Definition} {req : Request} (h : x.unmarked = r.unmarked) : sharesByte d req x ↔ sharesByte d req r := by
  rw [QRecord.unmarked_eq_iff.1 h]

theorem State.overlapped_congr {d : Definition} {req : Request} (h : s.Follows t) (hs : s.overlapped k d req) : t.overlapped k d req := by
  obtain ⟨r, hr, hk, shares⟩ := hs
  obtain ⟨x, hx, e⟩ := h.mem_queue hr
  obtain ⟨region, -⟩ := QRecord.fields_of_unmarked e
  exact ⟨x, hx, region.trans hk, (sharesByte_congr e).2 shares⟩

/-! ### SEAL_WAIT regions (R76) -/

/-- No ACTIVE region waits in SEAL_WAIT while it is ready. -/
def State.waitsUnready (s : State) : Prop := ∀ k g c, s.region? k = some g → g.life = .active → g.cycle = some c → c.pub = .sealWait →
  ¬ s.readiness k c

theorem State.waitsUnready_controllers (s : State) : s.controllers.waitsUnready := by
  intro k g' c' hg hl hc hp ready
  rw [State.region?_controllers, Option.map_eq_some_iff] at hg
  obtain ⟨g, hg, rfl⟩ := hg
  obtain ⟨c₁, h₁, ⟨rfl, stays⟩ | ⟨-, -, -, rfl⟩⟩ := Region.sealedEntry_cycle hc
  · rw [(Region.controllers_life _ _ _).2] at hl
    rw [State.readiness, show s.controllers.queue = s.queue from s.mapRegions_queue _] at ready
    exact stays hl ⟨hp, (Cycle.readyToSeal_iff s _ k).2 ready⟩
  · cases hp

/-- The selected record of a region has the draft generation as its target, and no direct draft write is counted (R102). -/
theorem State.Orderly.selectsOf (h : s.Orderly) (hs : s.selectsOf k) (hg : s.region? k = some g) (hl : g.life = .active)
    (hc : g.cycle = some c) : c.writers = 0 ∧ ∃ r ∈ s.queue, r.region = k ∧ r.target = c.gen + 1 := by
  obtain ⟨r, hr, selected, rfl⟩ := hs
  obtain ⟨-, target, writers⟩ := (h.fitted.fit hg hl hc).chosen r (mem_recsOf.2 ⟨hr, rfl⟩) selected
  exact ⟨writers, r, hr, rfl, target⟩

theorem State.Act.waitsUnready (h : s.Act t) (ht : t.Orderly) (hs : s.waitsUnready) : t.waitsUnready := by
  intro k g' c' hg hl hc hp ready
  obtain ⟨stale, targets, writers⟩ := ready
  rcases h.onward hg hl hc with rfl | ⟨g, c, found, on, behind⟩
  · exact s.waitsUnready_controllers k g' c' hg hl hc hp ⟨stale, targets, writers⟩
  · rcases behind with behind | selects
    · refine hs k g c found on.life on.cycle (on.pub ▸ hp) ⟨behind.1 ▸ stale, fun r hr hk => ?_, on.writers ▸ writers⟩
      obtain ⟨x, hx, e⟩ := h.follows.mem_queue hr
      obtain ⟨region, target, -⟩ := QRecord.fields_of_unmarked e
      rw [← target, ← on.gen]
      exact targets x hx (region.trans hk)
    · obtain ⟨-, r, hr, hk, target⟩ := ht.selectsOf selects hg hl hc
      exact targets r hr hk target

/-! ### Holds (R16) -/

theorem State.modHeld_no_hold {f : Tx → Tx} (hf : ∀ x, (f x).isHeld = false) {y : Tx} (hy : y ∈ (s.modHeld f).pTracker) : y.isHeld = false := by
  obtain ⟨x, -, rfl⟩ := List.mem_map.1 hy
  split
  · exact hf x
  · exact Bool.eq_false_iff.2 ‹_›

/-- An act holds no transaction that was not held. -/
theorem State.Act.held_mem (h : s.Act t) {y : Tx} (hy : y ∈ t.pTracker) (held : y.isHeld = true) : y ∈ s.pTracker := by
  have released : ∀ {f : Tx → Tx}, (∀ x, (f x).isHeld = false) → y ∈ (s.modHeld f).pTracker → y ∈ s.pTracker := fun hf hy =>
    absurd held (Bool.eq_false_iff.1 (State.modHeld_no_hold hf hy))
  cases h with
  | same => exact hy
  | controllers => exact (s.mapRegions_pTracker _) ▸ hy
  | releaseWrite => exact released (fun _ => rfl) hy
  | releasePost => exact released (fun _ => rfl) hy
  | releaseRead => exact released (fun _ => rfl) hy
  | select r g c _ first idle found cycle decides =>
    have tracker := (decides.runs (k := 0) found cycle).1
    rwa [tracker] at hy
  | issue r g c w _ mem selected waits found cycle decides =>
    have tracker := (decides.runs (k := 0) found cycle).1
    rwa [tracker] at hy
  | take => exact hy
  | present => exact hy
  | grantTx port x =>
    cases port with
    | s => exact hy
    | p =>
      obtain ⟨z, hz, rfl⟩ := List.mem_map.1 hy
      split at held
      · cases held
      · rw [if_neg ‹_›]
        exact hz
  | grantEngine => exact hy
  | grantNothing => exact hy
  | returns => exact (s.mapRegions_pTracker _) ▸ hy
  | endReset => exact hy
  | commit => exact hy

theorem Tx.isHeld_of_heldFor {y : Tx} {reason : HoldReason} (h : y.heldFor = some reason) : y.isHeld = true :=
  (Tx.isHeld_iff y).2 (by rw [h]; exact nofun)

/-- A write held DEMAND or COPYING is counted in the draft writer count of its region (R15, R63). -/
def State.heldWrites (s : State) : Prop := ∀ y ∈ s.pTracker, ∀ reason, y.heldFor = some reason → reason = .demand ∨ reason = .copying →
  ∀ k g c, y.region = some k → s.region? k = some g → g.life = .active → g.cycle = some c → 0 < c.writers

/-- The reasons of the holds have not passed. -/
def State.holdsStand (s : State) : Prop := ∀ y ∈ s.pTracker, ∀ reason, y.heldFor = some reason → s.holdStands y reason

theorem State.controllers_onward (hg : s.controllers.region? k = some g') (hl : g'.life = .active) (hc : g'.cycle = some c') :
    ∃ g c, s.region? k = some g ∧ g.life = .active ∧ g.cycle = some c ∧ g'.defn = g.defn ∧ c'.writers = c.writers ∧ c'.lines = c.lines := by
  rw [State.region?_controllers, Option.map_eq_some_iff] at hg
  obtain ⟨g, hg, rfl⟩ := hg
  obtain ⟨c₁, h₁, second⟩ := Region.sealedEntry_cycle hc
  obtain ⟨c₀, h₀, first⟩ := Region.drainEnd_cycle h₁
  have defn : ((g.drainEnd s.queue k).sealedEntry s.queue k).defn = g.defn := by
    obtain ⟨f, e⟩ := Region.sealedEntry_eq (g.drainEnd s.queue k) s.queue k
    obtain ⟨f', e'⟩ := Region.drainEnd_eq g s.queue k
    rw [e, e']
    rfl
  rw [(Region.controllers_life _ _ _).2, (Region.controllers_life _ _ _).1] at hl
  have drained : c₁.writers = c₀.writers ∧ c₁.lines = c₀.lines := by
    rcases first with ⟨rfl, -⟩ | ⟨-, hp, -, rfl⟩
    · exact ⟨rfl, rfl⟩
    · obtain ⟨pub, pending, e, -⟩ := c₀.endDrain_keeps s.queue k hp
      rw [e]
      exact ⟨rfl, rfl⟩
  have sealed : c'.writers = c₁.writers ∧ c'.lines = c₁.lines := by
    rcases second with ⟨rfl, -⟩ | ⟨-, -, -, rfl⟩ <;> exact ⟨rfl, rfl⟩
  exact ⟨g, c₀, hg, hl, h₀, defn, sealed.1.trans drained.1, sealed.2.trans drained.2⟩

theorem State.Act.heldWrites (h : s.Act t) (hs : s.heldWrites) : t.heldWrites := by
  intro y hy reason held why k g' c' hk hg hl hc
  have before := hs y (h.held_mem hy (Tx.isHeld_of_heldFor held)) reason held why k
  rcases h.onward hg hl hc with rfl | ⟨g, c, found, on, -⟩
  · obtain ⟨g, c, found, life, cycle, -, writers, -⟩ := State.controllers_onward hg hl hc
    exact writers ▸ before g c hk found life cycle
  · exact on.writers ▸ before g c hk found on.life on.cycle

theorem State.heldFits.region (h : s.heldFits) {y : Tx} {reason : HoldReason} (hy : y ∈ s.pTracker) (held : y.heldFor = some reason) :
    ∃ k g c, y.region = some k ∧ s.region? k = some g ∧ g.life = .active ∧ g.cycle = some c := by
  obtain ⟨k, c, hk, core, -⟩ := h y hy reason held
  obtain ⟨g, hg, hl, hc⟩ := State.core_eq_some.1 core
  exact ⟨k, g, c, hk, hg, hl, hc⟩

theorem State.Act.holdsStand (h : s.Act t) (ht : t.Orderly) (hf : t.heldFits) (hw : t.heldWrites) (hs : s.holdsStand) : t.holdsStand := by
  intro y hy reason held
  obtain ⟨k', found⟩ := hs y (h.held_mem hy (Tx.isHeld_of_heldFor held)) reason held
  obtain ⟨hk', g, hg, c, hc, line, full, shares⟩ := found
  obtain ⟨k, g', c', hk, hg', hl', hc'⟩ := hf.region hy held
  obtain rfl : k = k' := Option.some.inj (hk.symm.trans hk')
  have before : ∃ g₀ c₀, s.region? k = some g₀ ∧ g₀.cycle = some c₀ ∧ g'.defn = g₀.defn ∧
      (reason = .demand ∨ reason = .copying → ∀ n, c₀.lacks n → c'.lacks n) := by
    rcases h.onward hg' hl' hc' with rfl | ⟨g₀, c₀, found, on, behind⟩
    · obtain ⟨g₀, c₀, found, -, cycle, defn, -, lines⟩ := State.controllers_onward hg' hl' hc'
      exact ⟨g₀, c₀, found, cycle, defn, fun _ n hn => by rwa [Cycle.lacks, Cycle.line, lines]⟩
    · refine ⟨g₀, c₀, found, on.cycle, on.defn, fun why n hn => ?_⟩
      rcases behind with behind | selects
      · exact behind.2 n hn
      · have none := (ht.selectsOf selects hg' hl' hc').1
        exact absurd none (hw y hy reason held why k g' c' hk hg' hl' hc').ne'
  obtain ⟨g₀, c₀, found, cycle, defn, lines⟩ := before
  obtain rfl : g = g₀ := Option.some.inj (hg.symm.trans found)
  obtain rfl : c = c₀ := Option.some.inj (hc.symm.trans cycle)
  refine ⟨k, hk, g', hg', c', hc', fun why => ?_, fun why => ?_, fun why => ?_⟩ <;> rw [defn] at *
  · exact lines why _ (line why)
  · exact (full why).trans h.follows.queue_length
  · exact State.overlapped_congr h.follows (shares why)

theorem State.holdsStand_modHeld {f : Tx → Tx} (hf : ∀ x, (f x).isHeld = false) : (s.modHeld f).holdsStand := fun _ hy _ held =>
  absurd (Tx.isHeld_of_heldFor held) (Bool.eq_false_iff.1 (State.modHeld_no_hold hf hy))

/-- The youngest transaction alone can be held. -/
theorem State.holdsStand_of_youngest {older : List Tx} {x : Tx} {reason : HoldReason} (tracker : s.pTracker = older ++ [x])
    (free : ∀ y ∈ older, y.isHeld = false) (held : x.heldFor = some reason) (stands : s.holdStands x reason) : s.holdsStand := by
  intro y hy reason' held'
  rw [tracker] at hy
  rcases List.mem_append.1 hy with hy | hy
  · exact absurd (Tx.isHeld_of_heldFor held') (Bool.eq_false_iff.1 (free y hy))
  · obtain rfl := List.mem_singleton.1 hy
    obtain rfl : reason = reason' := Option.some.inj (held.symm.trans held')
    exact stands

/-- A held transaction of a double region that its owner could release now. -/
structure State.Holds (s : State) (x : Tx) (reason : HoldReason) (k : SlotNo) (g : Region) (c : Cycle) : Prop where
  tx : s.heldTx = some x
  state : ∃ age limit, x.state = .held reason age limit
  region : x.region = some k
  found : s.region? k = some g
  cycle : g.cycle = some c

theorem State.Holds.run_write {x : Tx} {reason : HoldReason} (h : s.Holds x reason k g c) (why : reason = .demand ∨ reason = .copying) :
    s.holdRelease = s.releaseWrite x k g c := by
  obtain ⟨hx, ⟨age, limit, hst⟩, hk, hg, hc⟩ := h
  rcases why with rfl | rfl <;> simp only [State.holdRelease, hx, hk, hst, hg, hc]

theorem State.Holds.run_post {x : Tx} (h : s.Holds x .queue k g c) : s.holdRelease = s.releasePost x k g c := by
  obtain ⟨hx, ⟨age, limit, hst⟩, hk, hg, hc⟩ := h
  simp only [State.holdRelease, hx, hk, hst, hg, hc]

theorem State.Holds.run_read {x : Tx} (h : s.Holds x .overlap k g c) : s.holdRelease = s.releaseRead x k g c := by
  obtain ⟨hx, ⟨age, limit, hst⟩, hk, hg, hc⟩ := h
  simp only [State.holdRelease, hx, hk, hst, hg, hc]

/-- The owner of the hold releases the transaction, or the reason stands and nothing changes. -/
theorem State.Holds.released_or_stands {x : Tx} {reason : HoldReason} (h : s.Holds x reason k g c) :
    s.holdRelease.holdsStand ∨ (s.holdRelease = s ∧ s.holdStands x reason) := by
  have write : reason = .demand ∨ reason = .copying →
      s.holdRelease.holdsStand ∨ (s.holdRelease = s ∧ s.holdStands x reason) := fun why => by
    have stands : c.lacks (g.defn.lineOf x.req.addr) → s.holdStands x reason := fun lacks =>
      ⟨k, h.region, g, h.found, c, h.cycle, fun _ => lacks, fun e => by simp [e] at why, fun e => by simp [e] at why⟩
    rw [h.run_write why]
    simp only [State.releaseWrite]
    split
    · exact .inl (State.holdsStand_modHeld fun _ => rfl)
    · exact .inl (State.holdsStand_modHeld fun _ => rfl)
    · exact .inr ⟨rfl, stands (.inl ‹_›)⟩
    · exact .inr ⟨rfl, stands (.inr ‹_›)⟩
  cases reason with
  | demand => exact write (.inl rfl)
  | copying => exact write (.inr rfl)
  | queue =>
    rw [h.run_post]
    simp only [State.releasePost]
    split
    · exact .inl (State.holdsStand_modHeld fun _ => rfl)
    · exact .inr ⟨rfl, k, h.region, g, h.found, c, h.cycle, fun e => by simp at e, fun _ => Nat.not_lt.1 ‹_›, nofun⟩
  | overlap =>
    rw [h.run_read]
    simp only [State.releaseRead]
    split
    · exact .inr ⟨rfl, k, h.region, g, h.found, c, h.cycle, fun e => by simp at e, nofun, fun _ => (s.overlapsQueue_iff k g.defn x.req).1 ‹_›⟩
    · exact .inl (State.holdsStand_modHeld fun _ => rfl)

theorem State.holdRelease_stands (hf : s.heldFits) (hy : s.heldIsYoungest) : s.holdRelease.holdsStand := by
  cases hx : s.heldTx with
  | none =>
    have same : s.holdRelease = s := by simp only [State.holdRelease, hx]
    rw [same]
    intro y hy reason held
    have free := s.heldTx_eq_none_iff.1 hx y hy
    rw [Tx.isHeld_of_heldFor held] at free
    cases free
  | some x =>
    obtain ⟨older, tracker, free⟩ := State.pTracker_of_heldTx hy hx
    obtain ⟨reason, held⟩ := Option.ne_none_iff_exists'.1 ((Tx.isHeld_iff x).1 (List.find?_some hx))
    obtain ⟨k, g, c, hk, hg, -, hc⟩ := hf.region (List.mem_of_find?_eq_some hx) held
    have holds : s.Holds x reason k g c := ⟨hx, (Tx.heldFor_eq_some_iff x reason).1 held, hk, hg, hc⟩
    rcases holds.released_or_stands with released | ⟨same, stands⟩
    · exact released
    · rw [same]
      exact State.holdsStand_of_youngest tracker free held stands

/-! ### Records for replay (R102, R103) -/

/-- The IDLE unit has no eligible record, and the record of a WAITING one cannot be issued. -/
structure State.ReplayRests (s : State) : Prop where
  idle : s.replay = .idle → ∀ r ∈ s.queue, ¬ s.replayable r
  waits : s.replay ≠ .idle → s.replay.isIssued = false → ∀ r ∈ s.queue, r.selected = true → s.recordStands r

theorem State.recordStands_congr (e : x.unmarked = r.unmarked) : s.recordStands x ↔ s.recordStands r := by
  rw [QRecord.unmarked_eq_iff.1 e]

/-- A unit that decides waits for its record, or has issued its write. -/
theorem State.Decides.rests (h : s.Decides r g c t) (found : s.region? r.region = some g) (cycle : g.cycle = some c)
    (one : ∀ x ∈ s.queue, x.selected = true → x.unmarked = r.unmarked) : t.ReplayRests := by
  have stands : ∀ {v : State}, v.queue = s.queue → v.recordStands r → v.replay ≠ .idle → v.ReplayRests := fun hq hr busy =>
    ⟨fun idle => absurd idle busy, fun _ _ x hx sel => (State.recordStands_congr (one x (hq ▸ hx) sel)).2 hr⟩
  cases h with
  | copying line => exact stands rfl ⟨g, found, c, cycle, .inl line⟩ nofun
  | demand line partly => exact stands rfl ⟨g, found, c, cycle, .inr (.inl ⟨line, partly⟩)⟩ nofun
  | read line full bars => exact stands rfl ⟨g, found, c, cycle, .inr (.inr bars)⟩ nofun
  | issue => exact ⟨nofun, fun _ => nofun⟩

theorem State.replaySelect_rests (ho : s.Orderly) (idle : s.replay = .idle) : s.replaySelect.ReplayRests := by
  cases first : s.queue.find? s.eligible with
  | none =>
    have run : s.replaySelect = s := by simp only [State.replaySelect, idle, first]
    rw [run]
    exact ⟨fun _ r hr eligible => List.find?_eq_none.1 first r hr ((s.eligible_iff r).2 eligible), fun busy => absurd idle busy⟩
  | some r =>
    have run : s.replaySelect = { s with queue := markFirst s.eligible s.queue }.replayDecide r := by
      simp only [State.replaySelect, idle, first]
    obtain ⟨g, found, -, c, cycle, -⟩ := (s.eligible_iff r).1 (List.find?_some first)
    have one : (markFirst s.eligible s.queue).countP (·.selected) ≤ 1 := (ho.marked idle first).2.one
    have decides := State.decides { s with queue := markFirst s.eligible s.queue } found cycle
    rw [run]
    refine decides.rests found cycle fun x hx sel => ?_
    rw [eq_of_countP_le_one one hx (marked_mem_markFirst first) sel rfl]
    rfl

theorem State.replayIssue_rests (ho : s.Orderly) {w : WaitReason} (waits : s.replay = .waiting w) : s.replayIssue.ReplayRests := by
  simp only [State.replayIssue, waits]
  split
  · rename_i r found
    have mem : r ∈ s.queue := List.mem_of_find?_eq_some found
    have sel : r.selected = true := List.find?_some found
    obtain ⟨g, c, hg, -, hc⟩ := ho.fitted.active_of_rec mem
    exact (s.decides hg hc).rests hg hc fun x hx hsel => by rw [eq_of_countP_le_one ho.paired.one hx mem hsel sel]
  · rename_i none
    refine ⟨fun idle => ?_, fun _ _ r hr sel => absurd sel (List.find?_eq_none.1 none r hr)⟩
    rw [waits] at idle
    cases idle

theorem State.replayAdvance_rests (ho : s.Orderly) : s.replayAdvance.ReplayRests := by
  simp only [State.replayAdvance]
  split
  · exact State.replaySelect_rests ho ‹_›
  · exact State.replayIssue_rests ho ‹_›
  · rename_i k w issued
    refine ⟨fun idle => ?_, fun _ free => ?_⟩
    · rw [issued] at idle
      cases idle
    · rw [issued] at free
      cases free

/-- A unit at rest changes at most the reason it waits for, and its demand entry. -/
theorem State.ReplayRests.advance (h : s.ReplayRests) : s.replayAdvance = s ∨
    ∃ w w' d, s.replay = .waiting w ∧ s.replayAdvance = { s with replay := .waiting w', demand := d } := by
  simp only [State.replayAdvance]
  split
  · rename_i idle
    rcases s.replaySelect_cases with e | ⟨r, hr, eligible, -⟩
    · exact .inl e
    · exact absurd ((s.eligible_iff r).1 eligible) (h.idle idle r hr)
  · rename_i w waits
    rcases s.replayIssue_cases with e | ⟨r, hr, sel, -, e⟩
    · exact .inl e
    · obtain ⟨g, hg, c, hc, stands⟩ := h.waits (by rw [waits]; exact nofun) (by rw [waits]; rfl) r hr sel
      have decides := s.decides hg hc
      rw [e]
      generalize s.replayDecide r = v at decides
      cases decides with
      | copying => exact .inr ⟨w, _, s.demand, waits, rfl⟩
      | demand => exact .inr ⟨w, _, _, waits, rfl⟩
      | read => exact .inr ⟨w, _, s.demand, waits, rfl⟩
      | issue line full clear =>
        rcases stands with copying | ⟨stale, partly⟩ | bars
        · exact absurd copying line
        · exact absurd (full stale) partly
        · exact absurd bars clear
  · exact .inl rfl

/-! ### Takes leave the replay unit at rest -/

/-- Only lines may be new, and only from STALE to COPYING. -/
structure Region.Relined (g g' : Region) : Prop where
  defn : g'.defn = g.defn
  life : g'.life = g.life
  none : g.cycle = none → g'.cycle = none
  cycle : ∀ c, g.cycle = some c → ∃ c', g'.cycle = some c' ∧ c'.pub = c.pub ∧ c'.gen = c.gen ∧ c'.front = c.front ∧
    c'.writers = c.writers ∧ ∀ n, c'.line n = c.line n ∨ (c.line n = .stale ∧ c'.line n = .copying)

theorem Region.relined_refl (g : Region) : g.Relined g := ⟨rfl, rfl, id, fun c hc => ⟨c, hc, rfl, rfl, rfl, rfl, fun _ => .inl rfl⟩⟩

theorem Region.Relined.trans {a b c : Region} (h : a.Relined b) (h' : b.Relined c) : a.Relined c := by
  refine ⟨h'.defn.trans h.defn, h'.life.trans h.life, fun hn => h'.none (h.none hn), fun x hx => ?_⟩
  obtain ⟨y, hy, pub, gen, front, writers, lines⟩ := h.cycle x hx
  obtain ⟨z, hz, pub', gen', front', writers', lines'⟩ := h'.cycle y hy
  refine ⟨z, hz, pub'.trans pub, gen'.trans gen, front'.trans front, writers'.trans writers, fun n => ?_⟩
  rcases lines n with e | ⟨stale, copying⟩
  · rw [← e]
    exact lines' n
  · rcases lines' n with e | ⟨stale', -⟩
    · exact .inr ⟨stale, e.trans copying⟩
    · rw [copying] at stale'
      cases stale'

theorem Region.relined_taken {line : Nat} (hc : g.cycle = some c) (h : c.lines[line]? = some .stale) :
    g.Relined (g.withCycle { c with lines := c.lines.set line .copying }) := by
  refine ⟨rfl, rfl, fun none => by simp [hc] at none, fun d hd => ?_⟩
  obtain rfl : c = d := Option.some.inj (hc.symm.trans hd)
  refine ⟨_, rfl, rfl, rfl, rfl, rfl, fun n => ?_⟩
  by_cases hn : n = line
  · rw [hn]
    exact .inr ⟨c.line_of_some line .stale h, Cycle.line_set_self (c := c) rfl h⟩
  · exact .inl (Cycle.line_set_ne (c := c) rfl hn)

theorem State.relined_of_set (hg : s.region? k = some g) (on : g.Relined g') (ht : t.table = s.table.set k (some g')) :
    State.records Region.Relined s t := fun i => by
  rw [State.region?_of_set ht]
  split
  · rename_i hi
    rw [hi, hg]
    exact .held on
  · exact .refl Region.relined_refl _

/-- What takes leave as it is for the replay unit. -/
structure State.Takes (s t : State) : Prop where
  records : State.records Region.Relined s t
  queue : t.queue = s.queue
  pTracker : t.pTracker = s.pTracker
  replay : t.replay = s.replay ∨ (s.replay = .waiting .demand ∧ t.replay = .waiting .copying)

theorem State.Takes.refl (s : State) : s.Takes s := ⟨.of_table Region.relined_refl rfl, rfl, rfl, .inl rfl⟩

theorem State.Takes.trans (h : s.Takes t) (h' : t.Takes u) : s.Takes u := by
  refine ⟨fun k => recordsIn.trans (r := Region.Relined) (fun a b => a.trans b) (h.records k) (h'.records k), h'.queue.trans h.queue, h'.pTracker.trans h.pTracker, ?_⟩
  rcases h.replay with e | ⟨demand, copying⟩
  · rw [← e]
    exact h'.replay
  · rcases h'.replay with e | ⟨demand', -⟩
    · exact .inr ⟨demand, e.trans copying⟩
    · rw [copying] at demand'
      cases demand'

theorem State.takes_copyTake (s : State) : s.Takes s.copyTake := by
  rcases s.copyTake_cases with e | ⟨j, k, line, ptr, -, free, work, e⟩
  · rw [e]
    exact .refl s
  · obtain ⟨g, c, hg, -, hc, -, hl⟩ := s.region_of_isWork work
    rw [e, State.takeLine_of_work { s with rrPtr := ptr } j hg hc hl]
    refine ⟨State.relined_of_set hg (Region.relined_taken hc hl) rfl, rfl, rfl, ?_⟩
    · show (if s.replayDemands k line = true then _ else s.replay) = s.replay ∨ (_ ∧ (if s.replayDemands k line = true then _ else s.replay) = _)
      split
      · rename_i waits
        exact .inr ⟨((s.replayDemands_iff k line).1 waits).1, rfl⟩
      · exact .inl rfl

theorem State.takes_copyTakes (s : State) : s.Takes s.copyTakes :=
  ((s.takes_copyTake.trans (State.takes_copyTake _)).trans (State.takes_copyTake _)).trans (State.takes_copyTake _)

theorem State.Takes.rests (h : s.Takes t) (hs : s.ReplayRests) : t.ReplayRests := by
  refine ⟨fun idle r hr eligible => ?_, fun busy free r hr sel => ?_⟩
  · have before : s.replay = .idle := by
      rcases h.replay with e | ⟨-, copying⟩
      · exact e.symm.trans idle
      · rw [copying] at idle
        cases idle
    obtain ⟨g', hg', hl, c', hc', hp, target, writers⟩ := eligible
    obtain ⟨g, hg, on⟩ := (h.records r.region).exists_of_some_right hg'
    cases hc : g.cycle with
    | none =>
      rw [on.none hc] at hc'
      cases hc'
    | some c =>
      obtain ⟨d, hd, pub, gen, -, w, -⟩ := on.cycle c hc
      obtain rfl : d = c' := Option.some.inj (hd.symm.trans hc')
      exact hs.idle before r (h.queue ▸ hr) ⟨g, hg, on.life ▸ hl, c, hc, pub ▸ hp, gen ▸ target, w ▸ writers⟩
  · have before : s.replay ≠ .idle ∧ s.replay.isIssued = false := by
      rcases h.replay with e | ⟨demand, -⟩
      · exact ⟨e ▸ busy, e ▸ free⟩
      · rw [demand]
        exact ⟨nofun, rfl⟩
    obtain ⟨g, hg, c, hc, stands⟩ := hs.waits before.1 before.2 r (h.queue ▸ hr) sel
    obtain ⟨g', hg', on⟩ := (h.records r.region).exists_of_some hg
    obtain ⟨c', hc', -, -, front, -, lines⟩ := on.cycle c hc
    refine ⟨g', hg', c', hc', ?_⟩
    rcases stands with copying | ⟨stale, partly⟩ | bars
    · rcases lines r.line with e | ⟨-, e⟩
      · exact .inl (e.trans copying)
      · exact .inl e
    · rcases lines r.line with e | ⟨-, e⟩
      · exact .inr (.inl ⟨e.trans stale, partly⟩)
      · exact .inl e
    · obtain ⟨y, hy, rest⟩ := bars
      refine .inr (.inr ⟨y, h.pTracker ▸ hy, ?_⟩)
      rwa [on.defn, front]

theorem State.ReplayRests.present (h : s.ReplayRests) : s.enginePresent.ReplayRests := by
  obtain ⟨e, hs, -⟩ := s.enginePresent_eq
  rw [hs]
  exact ⟨h.idle, h.waits⟩

theorem State.engineActs_rests (ho : s.Orderly) : s.engineActs.ReplayRests :=
  ((State.takes_copyTakes _).rests (State.replayAdvance_rests ho)).present

theorem State.returns_of_active (hg : s.region? k = some g) (hl : g.life = .active) : s.returns.region? k = some g := by
  rw [State.returns, State.region?_mapRegions, hg, Option.map_some, Region.returnIf_of_active hl]

theorem State.active_of_returns (hg : s.returns.region? k = some g) (hl : g.life = .active) : s.region? k = some g := by
  rw [State.returns, State.region?_mapRegions, Option.map_eq_some_iff] at hg
  obtain ⟨g', hg', rfl⟩ := hg
  rcases g'.returnIf_cases (s.nothingLeft k) with ⟨e, -⟩ | ⟨-, -, e⟩ <;> rw [e] at hl ⊢
  · exact hg'
  · cases hl

theorem State.ReplayRests.ended (h : u.ReplayRests) (ho : u.Orderly) : u.returns.softResetEnd.commitReady.ReplayRests := by
  obtain ⟨soft, conds, e⟩ := u.ended_fields
  rw [e]
  refine ⟨fun idle r hr eligible => ?_, fun busy free r hr sel => ?_⟩
  · obtain ⟨g, hg, hl, rest⟩ := eligible
    exact h.idle idle r hr ⟨g, State.active_of_returns hg hl, hl, rest⟩
  · obtain ⟨g, hg, rest⟩ := h.waits busy free r hr sel
    obtain ⟨g', c', found, hl, -⟩ := ho.fitted.active_of_rec (show r ∈ u.queue from hr)
    obtain rfl : g = g' := Option.some.inj (hg.symm.trans found)
    exact ⟨g, State.returns_of_active found hl, rest⟩

/-! ### Grants (R162) -/

/-- The arbiter cannot grant. -/
def State.full (s : State) : Prop := 8 ≤ s.outstanding.length ∨ s.mRequest ≠ none

/-- Nobody presents. -/
structure State.Quiet (s : State) : Prop where
  engine : s.presented = none
  p : ∀ x ∈ s.pTracker, x.state ≠ .accepted
  s : ∀ x ∈ s.sTracker, x.state ≠ .accepted

theorem State.Decides.channel (h : s.Decides r g c t) : t.outstanding = s.outstanding ∧ t.mRequest = s.mRequest := by
  cases h <;> exact ⟨rfl, rfl⟩

theorem State.Act.full (h : s.Act t) (hs : s.full) : t.full := by
  cases h with
  | same => exact hs
  | controllers => exact hs
  | releaseWrite => exact hs
  | releasePost => exact hs
  | releaseRead => exact hs
  | select r g c _ first idle found cycle decides =>
    obtain ⟨out, request⟩ := decides.channel
    rw [State.full, out, request]
    exact hs
  | issue r g c w _ mem selected waits found cycle decides =>
    obtain ⟨out, request⟩ := decides.channel
    rw [State.full, out, request]
    exact hs
  | take => exact hs
  | present => exact hs
  | grantTx => exact .inr nofun
  | grantEngine => exact .inr nofun
  | grantNothing => exact hs
  | returns => exact hs
  | endReset => exact hs
  | commit => exact hs

theorem State.Requested.grant_full {p : Position} (h : s.Requested) (hh : s.housed) (hp : s.grantee = some p) : s.grant.full := by
  obtain ⟨-, -, onP, onS, onEngine⟩ := State.grantee_presents s hp
  rw [State.grant_of_grantee hp]
  cases p with
  | p =>
    obtain ⟨x, hx⟩ := Option.isSome_iff_exists.1 (onP rfl)
    have hx' : (s.countPassed .p).presents .p = some x := hx
    simp only [State.grantTo, hx']
    exact .inr nofun
  | s =>
    obtain ⟨x, hx⟩ := Option.isSome_iff_exists.1 (onS rfl)
    have hx' : (s.countPassed .s).presents .s = some x := hx
    simp only [State.grantTo, hx']
    exact .inr nofun
  | engine =>
    obtain ⟨e, he⟩ := Option.isSome_iff_exists.1 (onEngine rfl)
    have he' : (s.countPassed .engine).presented = some e := he
    obtain ⟨w, hw⟩ := Option.ne_none_iff_exists'.1 (h.engineRequest hh (h.own e he))
    have hw' : (s.countPassed .engine).engineRequest e = some w := hw
    simp only [State.grantTo, he', State.grantEngine, hw']
    obtain ⟨z, hz, -⟩ := State.enginePresent_eq (((s.countPassed .engine).withdraw (· == e)).sendOut (.engine e) w)
    rw [hz]
    exact .inr nofun

theorem State.quiet_of_no_grantee (hr : s.mRequest = none) (hl : s.outstanding.length < 8) (h : s.grantee = none) : s.Quiet := by
  have nobody : ¬ ((s.presents .p).isSome ∨ s.presented.isSome ∨ (s.presents .s).isSome) := fun some => State.grantee_ne_none hr hl some h
  simp only [not_or, Option.not_isSome_iff_eq_none] at nobody
  obtain ⟨p, engine, sPort⟩ := nobody
  exact ⟨engine, (s.presents_eq_none_iff .p).1 p, (s.presents_eq_none_iff .s).1 sPort⟩

/-- After the grant the arbiter cannot grant again, or nobody presents. -/
theorem State.Requested.granted_or_quiet (h : s.Requested) (hh : s.housed) : s.grant.full ∨ (s.grant = s ∧ s.Quiet) := by
  cases hp : s.grantee with
  | some p => exact .inl (h.grant_full hh hp)
  | none =>
    have same := State.grant_of_none hp
    by_cases full : s.full
    · exact .inl (same.symm ▸ full)
    · simp only [State.full, not_or, not_le, not_not] at full
      exact .inr ⟨same, State.quiet_of_no_grantee full.2 full.1 hp⟩

/-- The engine at rest: replay unit, takes and presentation. -/
structure State.EngineRests (s : State) : Prop where
  replay : s.ReplayRests
  takes : s.takesDone
  presents : s.presentsReady

theorem State.engineActs_rest (ho : s.Orderly) : s.engineActs.EngineRests := by
  refine ⟨State.engineActs_rests ho, ?_, ?_⟩ <;> rw [State.engineActs]
  · exact State.takesDone_enginePresent (State.takesDone_copyTakes _)
  · exact State.presentsReady_enginePresent _

theorem State.copyTakes_of_done (h : s.takesDone) : s.copyTakes = s := by
  simp only [State.copyTakes, State.copyTake_of_done h]

/-- An engine at rest that presents nothing gets no request by acting again. -/
theorem State.EngineRests.quiet (h : s.EngineRests) (hq : s.Quiet) : s.engineActs.Quiet := by
  obtain ⟨engine, p, sPort⟩ := hq
  have empty := h.presents engine
  have presents : ∀ v : State, v.takesDone → v.presented = none → v.allReady = [] → v.pTracker = s.pTracker → v.sTracker = s.sTracker →
      v.copyTakes.enginePresent.Quiet := fun v done idle nothing hp hs => by
    have first : v.firstReady = none := by
      have all : v.ready ++ v.readyNow = [] := nothing
      simp [State.firstReady, all]
    rw [State.copyTakes_of_done done]
    simp only [State.enginePresent, idle]
    exact ⟨first, hp ▸ p, hs ▸ sPort⟩
  rw [State.engineActs]
  rcases h.replay.advance with e | ⟨w, w', d, -, e⟩ <;> rw [e]
  · exact presents s h.takes engine empty rfl rfl
  · exact presents _ h.takes engine empty rfl rfl

theorem State.engineActs_full (h : s.full) : s.engineActs.full := State.engineActs_keeps (P := State.full) (fun _ _ h act => act.full h) h

theorem State.Quiet.ended (h : u.Quiet) : u.returns.softResetEnd.commitReady.Quiet := by
  obtain ⟨soft, conds, e⟩ := u.ended_fields
  rw [e]
  exact ⟨h.engine, h.p, h.s⟩

theorem State.full_ended (h : u.full) : u.returns.softResetEnd.commitReady.full := by
  obtain ⟨soft, conds, e⟩ := u.ended_fields
  rw [e]
  exact h

/-! ### The end of a happening -/

/-- A state from which the rest of a happening leaves nothing to do. -/
structure State.Poised (s : State) : Prop where
  orderly : s.Orderly
  held : s.heldFits
  txs : s.txsAgree
  housed : s.housed
  requested : s.Requested

theorem State.heldWrites_of_counted (hf : s.heldFits) (hc : s.transactionsCounted) : s.heldWrites := by
  intro y hy reason held why k g c hk hg hl hgc
  obtain ⟨k', c', hk', -, -, count⟩ := hf y hy reason held
  rw [(hc.1 k g hg c hgc).2.2, State.countedIn, List.countP_pos_iff]
  exact ⟨y, List.mem_append_left _ hy, by simp [hk, count why]⟩

/-- What every act keeps for the records and the engine. -/
structure State.Ordered (s : State) : Prop where
  orderly : s.Orderly
  held : s.heldFits
  housed : s.housed
  requested : s.Requested

theorem State.Act.ordered (h : s.Act t) (hs : s.Ordered) : t.Ordered :=
  ⟨h.orderly hs.held hs.orderly, h.heldFits hs.held, h.housed hs.housed, h.requested hs.housed hs.requested⟩

/-- What every act keeps once the controllers and the held transaction have acted. -/
structure State.Attended (s : State) : Prop where
  ordered : s.Ordered
  writes : s.heldWrites
  waits : s.waitsUnready
  stands : s.holdsStand

theorem State.Act.attended (h : s.Act t) (hs : s.Attended) : t.Attended := by
  have ordered := h.ordered hs.ordered
  have writes := h.heldWrites hs.writes
  exact ⟨ordered, writes, h.waitsUnready ordered.orderly hs.waits, h.holdsStand ordered.orderly ordered.held writes hs.stands⟩

theorem State.Poised.ordered (h : s.Poised) : s.Ordered := ⟨h.orderly, h.held, h.housed, h.requested⟩

theorem State.Poised.attended (h : s.Poised) : s.controllers.holdRelease.Attended := by
  have controlled := State.Act.ordered .controllers h.ordered
  have act := State.act_holdRelease s.controllers
  have released := act.ordered controlled
  have writes : s.controllers.heldWrites := State.Act.heldWrites .controllers (State.heldWrites_of_counted h.held h.txs.2)
  refine ⟨released, act.heldWrites writes, act.waitsUnready released.orderly s.waitsUnready_controllers, ?_⟩
  exact State.holdRelease_stands controlled.held (s.calm_controllers.txsAgree h.txs).1

theorem State.Poised.settle_attended (h : s.Poised) : s.settle.Attended :=
  State.settle_keeps_after (P := State.Attended) (fun _ _ hs act => act.attended hs) h.attended

/-- The arbiter cannot grant at the end of a happening, or nobody presents; the engine rests. -/
theorem State.Poised.worked (h : s.Poised) : (s.worked.full ∨ s.worked.Quiet) ∧ s.worked.EngineRests ∧ s.worked.Orderly := by
  have start := h.attended
  have keeps : ∀ v w : State, v.Attended → v.Act w → w.Attended := fun _ _ hs act => act.attended hs
  generalize hv : s.controllers.holdRelease = v at start
  have run : s.worked = v.engineActs.grant.engineActs := by rw [← hv]; rfl
  have before : v.engineActs.Attended := State.engineActs_keeps keeps start
  have rests := State.engineActs_rest start.ordered.orderly
  have granted := (State.act_grant v.engineActs).attended before
  rw [run]
  refine ⟨?_, State.engineActs_rest granted.ordered.orderly, (State.engineActs_keeps keeps granted).ordered.orderly⟩
  rcases before.ordered.requested.granted_or_quiet before.ordered.housed with full | ⟨same, quiet⟩
  · exact .inl (State.engineActs_full full)
  · rw [same]
    exact .inr (rests.quiet quiet)

/-- The rest of a happening leaves a state at rest. -/
theorem State.Poised.settle (h : s.Poised) : s.settle.restful ∧ s.settle.requestsAgree := by
  obtain ⟨takes, drained, retiring, presents, readyNow, soft⟩ := s.settle_leaves_nothing
  obtain ⟨ordered, -, waits, stands⟩ := h.settle_attended
  obtain ⟨grants, rests, orderly⟩ := h.worked
  have replay : s.settle.ReplayRests := s.settle_eq ▸ rests.replay.ended orderly
  have quiet : s.settle.full ∨ s.settle.Quiet := s.settle_eq ▸ grants.imp State.full_ended State.Quiet.ended
  refine ⟨⟨fun k g hg c hc hl hp => drained k g c hg hl hc hp, fun k g hg c hc hl hp => waits k g c hg hl hc hp, stands,
    replay.idle, replay.waits, takes, presents, fun hl hr => ?_, fun k g hg hl left => ?_, fun hs idle => ?_⟩,
    (State.requestsAgree_iff _).2 ⟨ordered.requested, readyNow⟩⟩
  · rcases quiet with full | quiet
    · rcases full with full | request
      · omega
      · exact absurd hr request
    · exact ⟨quiet.engine, quiet.p, quiet.s⟩
  · have none := retiring k g hg hl
    rw [(State.nothingLeft_iff _ k).2 left] at none
    cases none
  · have busy := soft hs
    rw [(State.portIdle_iff _).2 idle] at busy
    cases busy

end Sys2Proof.Machine
end

section
/-! PROOFS. The happenings that the blocks go on with: what each begins with is ordered, so the rest of it leaves the part at rest. -/

namespace Sys2Proof.Machine

variable {s t u : State} {i : Instr} {k : SlotNo} {g g' : Region} {c c' : Cycle}

/-- What a happening begins with before the blocks go on with it. -/
inductive State.Opens (s : State) : State → Prop
  | accepted (port : Port) (req : Request) (can : s.canAccept port) : s.Opens (s.accept port req (s.resolve port req))
  | taken (port : Port) (x : Tx) (rest : List Tx) (front : s.tracker port = x :: rest) :
      s.Opens ((s.setTracker port rest).leaveCount x)
  | memoryTakes : s.Opens { s with mRequest := none }
  | response (o : Outstanding) (rest : List Outstanding) (status : MStatus) (data : List Word) (oldest : s.outstanding = o :: rest) :
      s.Opens ({ s with outstanding := rest }.handOver o.owner status data)
  | epoch (source : Source) : s.Opens (s.epoch source)
  | activated (matched : Bool) (k : SlotNo) (g : Region) (found : s.region? k = some g) (life : g.life = .defined)
      (apart : ¬ s.clashing k g.defn) (pool : g.defn.double.isSome = true → s.poolUsed + g.defn.size ≤ 16384) :
      s.Opens (s.putRegion k (some (g.activated matched)))
  | retired (k : SlotNo) (g : Region) (found : s.region? k = some g) (life : g.life = .active) : s.Opens (s.retireRegion k)
  | revived (k : SlotNo) (g : Region) (found : s.region? k = some g) (ok : g.revivable = true) :
      s.Opens (s.modRegion k Region.revived)
  | softReset : s.Opens s.beginSoftReset

theorem State.Opens.begun (h : s.Opens u) : s.Begun u := by
  cases h with
  | accepted port req can => exact .accepted port req can
  | taken port x rest front => exact .taken port x rest front
  | memoryTakes => exact .memoryTakes
  | response o rest status data oldest => exact .handed o rest _ oldest (State.handed _ o.owner status data)
  | epoch source => exact .epoch source
  | activated matched k g found life apart pool => exact .activated matched k g found life apart pool
  | retired k g found life => exact .retired k g found life
  | revived k g found ok => exact .revived k g found ok
  | softReset => exact .softReset

theorem State.Opens.txsAgree (h : s.Opens u) (hw : s.wellPlaced) (hs : s.txsAgree) : u.txsAgree := by
  have calmly : ∀ {v : State}, s.Calm v → v.txsAgree := fun hv => hv.txsAgree hs
  cases h with
  | accepted port req can => exact State.txsAgree_accept can hs
  | taken port x rest front => exact State.txsAgree_taken front hs
  | memoryTakes => exact calmly (.of_table rfl rfl rfl)
  | response o rest status data =>
    exact calmly ((State.Calm.of_table (t := { s with outstanding := rest }) rfl rfl rfl).trans (State.calm_handOver _ _ _ _))
  | epoch source =>
    refine calmly (.of_records (s.mapRegions_pTracker _) (s.mapRegions_sTracker _) (.mapRegions s _ fun k g _ => ?_))
    split
    · exact g.sameCounts_epoch
    · exact g.sameCounts_refl
  | activated matched k g found life =>
    refine State.txsAgree_putRegion hs k ?_ _ ?_
    · exact fun g' hg' => Option.some.inj (found.symm.trans hg') ▸ State.cycle_of_defined hw found life
    · rintro _ ⟨⟩ c hc
      obtain ⟨_, -, rfl⟩ := Option.map_eq_some_iff.1 hc
      exact ⟨rfl, rfl, rfl⟩
  | retired k => exact calmly (s.calm_retireRegion k)
  | revived k =>
    exact calmly (.modRegion s k _ fun g _ => Region.sameCounts_trans (Region.sameCounts_of_cycle rfl)
      (Region.sameCounts_modCycle _ fun _ => ⟨rfl, rfl, rfl⟩))
  | softReset => exact s.txsAgree_beginSoftReset

/-! ### The copy slots hold lines of regions in the table -/

theorem State.housed.same (h : s.housed) (hr : s.keepsRecords t) (hs : t.slots = s.slots) : t.housed :=
  h.of_slots hr fun j y hy => ⟨y, by rwa [hs] at hy, rfl⟩

theorem State.keepsRecords_accept (s : State) (port : Port) (req : Request) (res : Resolution) : s.keepsRecords (s.accept port req res) := by
  by_cases refused : ∃ k, res = .refused k
  · obtain ⟨k, rfl⟩ := refused
    exact State.keepsRecords_of_chains (s.chains_accept_refused (m := 0) port req k)
  · exact State.keepsRecords_of_chains (s.chains_accept port req res fun k e => refused ⟨k, e⟩)

theorem State.keepsRecords.trans (h : s.keepsRecords t) (h' : t.keepsRecords u) : s.keepsRecords u := fun k hk => h' k (h k hk)

theorem State.setSlot_slot (s : State) (j i : Fin 4) (x : CopySlot) : (s.setSlot j x).slots[i] = if i = j then x else s.slots[i] := by
  by_cases h : i = j
  · subst h
    simp [State.setSlot]
  · have other : j.val ≠ i.val := fun e => h (Fin.ext e.symm)
    simp [State.setSlot, h, other]

/-- A slot that a change leaves with a line had one of the same region. -/
def State.keepsLines (s t : State) : Prop :=
  ∀ (i : Fin 4) y, t.slots[i] = .copying y → ∃ y', s.slots[i] = .copying y' ∧ y'.region = y.region

theorem State.keepsLines_of_slots (h : t.slots = s.slots) : s.keepsLines t := fun i y hy => ⟨y, by rwa [h] at hy, rfl⟩

theorem State.keepsLines_free (s : State) (j : Fin 4) : s.keepsLines (s.setSlot j .free) := fun i y hy => by
  rw [s.setSlot_slot] at hy
  split at hy
  · cases hy
  · exact ⟨y, hy, rfl⟩

theorem State.keepsLines_copying {j : Fin 4} {x y : Copy} (slot : s.slots[j] = .copying x) (region : y.region = x.region) :
    s.keepsLines (s.setSlot j (.copying y)) := fun i z hz => by
  rw [s.setSlot_slot] at hz
  split at hz
  · rename_i hi
    cases hz
    exact ⟨x, hi ▸ slot, region.symm⟩
  · exact ⟨z, hz, rfl⟩

theorem State.keepsLines_report (s : State) (k : SlotNo) (third : Bool) : s.keepsLines (s.reportError k third) := fun i y hy =>
  ⟨y, s.slots_reportError k third i y hy, rfl⟩

theorem State.keepsLines.trans (h : s.keepsLines t) (h' : t.keepsLines u) : s.keepsLines u := fun i y hy => by
  obtain ⟨y', hy', e⟩ := h' i y hy
  obtain ⟨y'', hy'', e'⟩ := h i y' hy'
  exact ⟨y'', hy'', e'.trans e⟩

theorem State.Handed.keepsLines {o : Owner} (h : s.Handed o t) : s.keepsLines t := by
  have answered := fun port place status data => State.keepsLines_of_slots (s.sameEngine_portAnswered port place status data).slots
  cases h with
  | gone => exact State.keepsLines_of_slots rfl
  | answered port place status data => exact answered port place status data
  | unmatched port place status data => exact answered port place status data
  | reported port place status data k => exact (answered port place status data).trans (State.keepsLines_report _ k false)
  | slotFree => exact State.keepsLines_of_slots rfl
  | slotFinished j => exact s.keepsLines_free j
  | slotEnded j => exact s.keepsLines_free j
  | slotRead j y data slot => exact State.keepsLines_copying slot rfl
  | slotCopied j => exact s.keepsLines_free j
  | slotRetries j y third slot copying => exact (s.keepsLines_report y.region third).trans (State.keepsLines_copying copying rfl)
  | slotLost j y third => exact s.keepsLines_report y.region third
  | replayFree => exact State.keepsLines_of_slots rfl
  | replayDone => exact State.keepsLines_of_slots rfl
  | replayError k => exact (State.keepsLines_of_slots rfl).trans (State.keepsLines_report s.replayDone k false)

theorem State.keepsLines_retireRegion (s : State) (k : SlotNo) : s.keepsLines (s.retireRegion k) := fun i y hy => by
  rw [s.retireRegion_slot k i, State.markEnding, Fin.getElem_fin, Vector.getElem_ofFn] at hy
  split at hy
  · rename_i x hx
    split at hy
    · cases hy
      exact ⟨x, hx, rfl⟩
    · cases hy
      exact ⟨y, hx, rfl⟩
  · cases hy
  · cases hy

theorem State.keepsLines_beginSoftReset (s : State) : s.keepsLines s.beginSoftReset := fun i y hy => by
  rw [s.withdraws_beginSoftReset.slots i] at hy
  simp only [State.givenUp] at hy
  split at hy
  · split at hy
    · split at hy <;> cases hy
    · cases hy
    · cases hy
  · exact ⟨y, hy, rfl⟩

theorem State.Opens.housed (h : s.Opens u) (hs : s.housed) : u.housed := by
  cases h with
  | accepted port req => exact hs.same (s.keepsRecords_accept port req _) (s.sameEngine_accept port req _).slots
  | taken port x rest =>
    have first := State.keepsRecords_of_table (s := s) (s.setTracker_table port rest)
    refine hs.same (first.trans (State.keepsRecords_of_chains (State.chains_leaveCount _ x))) ?_
    exact ((s.sameEngine_setTracker port rest).trans (State.sameEngine_leaveCount _ x)).slots
  | memoryTakes => exact hs.same (State.keepsRecords_of_table rfl) rfl
  | response o rest status data =>
    exact State.housed.of_slots (s := { s with outstanding := rest }) hs
      (State.keepsRecords_of_chains (State.chains_handOver _ le_rfl o.owner status data)) (State.handed _ o.owner status data).keepsLines
  | epoch source => exact hs.same (s.keepsRecords_mapRegions _) (s.mapRegions_slots _)
  | activated matched k g => exact hs.same (State.keepsRecords_of_set (g := g.activated matched) rfl) rfl
  | retired k =>
    refine hs.of_slots (State.keepsRecords.trans (s.modRegion_eq_mapRegions k _ ▸ s.keepsRecords_mapRegions _)
      (State.keepsRecords_of_table (s.retireRegion_table k))) (s.keepsLines_retireRegion k)
  | revived k => exact hs.same (s.modRegion_eq_mapRegions k _ ▸ s.keepsRecords_mapRegions _) rfl
  | softReset => exact hs.of_slots (State.keepsRecords_of_chains (s.beginSoftReset_chains (m := 0))) s.keepsLines_beginSoftReset

/-- What a happening begins with is ordered, whatever the link answers. -/
theorem State.Opens.poised (h : s.Opens u) (safe : s.safe) (reply : Option Reply) : State.Poised { u with reply := reply } := by
  have orderly := State.orderly_of_safe safe
  obtain ⟨-, -, placed, health, youngest, copies, counted, -, -, held, -, -, -, -, requests, -⟩ := safe
  have copied := s.copiesAgree_iff.1 copies
  exact ⟨(h.begun.orderly copied orderly).of_same rfl rfl rfl rfl, (h.begun.heldFits (State.heldFits_of_agrees health held)).of_same rfl rfl,
    State.Calm.txsAgree (s := u) (.of_table rfl rfl rfl) (h.txsAgree placed ⟨youngest, counted⟩), h.housed (State.housed_of_copied copied),
    State.SameEngine.requested (s := u) ⟨rfl, rfl, rfl, rfl, rfl⟩ (h.begun.requested ((State.requestsAgree_iff s).1 requests).1)⟩

theorem State.Opens.settle (h : s.Opens u) (safe : s.safe) (reply : Option Reply) :
    (State.settle { u with reply := reply }).restful ∧ (State.settle { u with reply := reply }).requestsAgree := (h.poised safe reply).settle

end Sys2Proof.Machine
end

section
/-! PROOFS. The happenings that end at once: answers, holds, seals and definitions give no block anything to do. -/

namespace Sys2Proof.Machine

variable {s t u : State} {i : Instr} {k : SlotNo} {g g' : Region} {c c' : Cycle} {queue : List QRecord} {l l' : List Tx}

/-! ### Changes that give no block anything to do -/

/-- A tracker keeps its ACCEPTED transactions, holds none anew and loses none of a region. -/
structure TrackerEases (l l' : List Tx) : Prop where
  accepted : ∀ x : Tx, x.state = .accepted → (x ∈ l' ↔ x ∈ l)
  held : ∀ y ∈ l', ∀ reason, y.heldFor = some reason → ∃ x ∈ l, x.heldFor = some reason ∧ x.region = y.region ∧ x.req = y.req
  regions : ∀ x ∈ l, ∃ y ∈ l', y.region = x.region

theorem trackerEases_refl (l : List Tx) : TrackerEases l l :=
  ⟨fun _ _ => .rfl, fun y hy _ h => ⟨y, hy, h, rfl, rfl⟩, fun x hx => ⟨x, hx, rfl⟩⟩

theorem trackerEases_done (l : List Tx) {x : Tx} {status : Status} {data : List Word} (hx : x.state = .done status data) :
    TrackerEases l (l ++ [x]) := by
  refine ⟨fun y hy => ?_, fun y hy reason held => ?_, fun y hy => ⟨y, List.mem_append_left _ hy, rfl⟩⟩
  · rw [List.mem_append, List.mem_singleton]
    refine or_iff_left fun e => ?_
    rw [← e, hy] at hx
    cases hx
  · rcases List.mem_append.1 hy with hy | hy
    · exact ⟨y, hy, held, rfl, rfl⟩
    · rw [List.mem_singleton.1 hy, Tx.heldFor, hx] at held
      cases held

/-- Only held transactions change, and stay held for their reason or are answered. -/
theorem trackerEases_map (l : List Tx) {f : Tx → Tx} (plain : ∀ x, x.isHeld = false → f x = x)
    (keeps : ∀ x, x.isHeld = true → (f x).region = x.region ∧ (f x).req = x.req ∧ (f x).state ≠ .accepted ∧
      ∀ reason, (f x).heldFor = some reason → x.heldFor = some reason) : TrackerEases l (l.map f) := by
  have accepted : ∀ x : Tx, x.state = .accepted → x.isHeld = false := fun x hx => by rw [Tx.isHeld, hx]
  refine ⟨fun x hx => ⟨fun mem => ?_, fun mem => List.mem_map.2 ⟨x, mem, plain x (accepted x hx)⟩⟩, fun y hy reason held => ?_,
    fun x hx => ⟨f x, List.mem_map_of_mem hx, ?_⟩⟩
  · obtain ⟨y, hy, rfl⟩ := List.mem_map.1 mem
    cases hold : y.isHeld with
    | false => rwa [plain y hold]
    | true => exact absurd hx (keeps y hold).2.2.1
  · obtain ⟨x, hx, rfl⟩ := List.mem_map.1 hy
    cases hold : x.isHeld with
    | false => exact ⟨x, hx, by rwa [plain x hold] at held, by rw [plain x hold], by rw [plain x hold]⟩
    | true =>
      obtain ⟨region, req, -, stays⟩ := keeps x hold
      exact ⟨x, hx, stays reason held, region.symm, req.symm⟩
  · cases hold : x.isHeld with
    | false => rw [plain x hold]
    | true => exact (keeps x hold).1

/-- The publish state is the same, or a seal has been taken. -/
structure Cycle.Eases (queue : List QRecord) (k : SlotNo) (c c' : Cycle) : Prop where
  rest : ∃ pub pending, c' = { c with pub := pub, sealPending := pending }
  moves : c'.pub = c.pub ∨ (c.pub = .opened ∧ (c'.pub = .isSealed ∨ (c'.pub = .sealWait ∧ c.readyToSeal queue k = false)))

theorem Cycle.eases_refl (queue : List QRecord) (k : SlotNo) (c : Cycle) : c.Eases queue k c := ⟨⟨c.pub, c.sealPending, rfl⟩, .inl rfl⟩

theorem Cycle.eases_takeSeal (queue : List QRecord) (k : SlotNo) (c : Cycle) : c.Eases queue k (c.takeSeal queue k) := by
  simp only [Cycle.takeSeal]
  split
  · rename_i opened
    refine ⟨⟨_, c.sealPending, rfl⟩, .inr ⟨opened, ?_⟩⟩
    split
    · exact .inl rfl
    · exact .inr ⟨rfl, Bool.eq_false_iff.2 ‹_›⟩
  · exact ⟨⟨c.pub, true, rfl⟩, .inl rfl⟩
  all_goals exact c.eases_refl queue k

/-- Definition and slot state are the same, and the cycle items as above. -/
structure Region.Eases (queue : List QRecord) (k : SlotNo) (g g' : Region) : Prop where
  defn : g'.defn = g.defn
  life : g'.life = g.life
  back : ∀ c', g'.cycle = some c' → ∃ c, g.cycle = some c ∧ c.Eases queue k c'
  forth : ∀ c, g.cycle = some c → ∃ c', g'.cycle = some c' ∧ c.Eases queue k c'

theorem Region.eases_of_same (queue : List QRecord) (k : SlotNo) (hd : g'.defn = g.defn) (hl : g'.life = g.life) (hc : g'.cycle = g.cycle) :
    g.Eases queue k g' :=
  ⟨hd, hl, fun c h => ⟨c, hc ▸ h, c.eases_refl queue k⟩, fun c h => ⟨c, hc ▸ h, c.eases_refl queue k⟩⟩

/-- A change that gives no block anything to do. -/
structure State.Eases (s t : State) : Prop where
  back : ∀ k g', t.region? k = some g' → g'.life ≠ .defined → ∃ g, s.region? k = some g ∧ g.Eases s.queue k g'
  forth : ∀ k g, s.region? k = some g → g.cycle ≠ none → ∃ g', t.region? k = some g' ∧ g.Eases s.queue k g'
  queue : t.queue = s.queue
  replay : t.replay = s.replay ∨ ∃ w w', s.replay = .waiting w ∧ t.replay = .waiting w'
  slots : t.slots = s.slots
  ready : t.ready = s.ready
  readyNow : t.readyNow = s.readyNow
  presented : t.presented = s.presented
  outstanding : t.outstanding = s.outstanding
  mRequest : t.mRequest = s.mRequest
  softReset : t.softReset = s.softReset
  p : TrackerEases s.pTracker t.pTracker
  s : TrackerEases s.sTracker t.sTracker

theorem State.Eases.replay_idle (h : s.Eases t) (idle : t.replay = .idle) : s.replay = .idle := by
  rcases h.replay with e | ⟨w, w', -, e⟩
  · exact e ▸ idle
  · rw [e] at idle
    cases idle

theorem State.Eases.replay_issued (h : s.Eases t) {j : SlotNo} {w : MRequest} (hw : s.replay = .issued j w) : t.replay = .issued j w := by
  rcases h.replay with e | ⟨w', w'', e, -⟩
  · exact e ▸ hw
  · rw [e] at hw
    cases hw

theorem State.Eases.isIssued (h : s.Eases t) : t.replay.isIssued = s.replay.isIssued := by
  rcases h.replay with e | ⟨w, w', e, e'⟩
  · rw [e]
  · rw [e, e']
    rfl

theorem State.Eases.busy (h : s.Eases t) (busy : t.replay ≠ .idle) : s.replay ≠ .idle := fun idle => by
  rcases h.replay with e | ⟨w, w', e, -⟩
  · exact busy (e.trans idle)
  · rw [e] at idle
    cases idle

/-- An ACTIVE region with cycle items had the same, but for a seal taken now. -/
theorem State.Eases.cycle_back (h : s.Eases t) (hg : t.region? k = some g') (hl : g'.life ≠ .defined) (hc : g'.cycle = some c') :
    ∃ g c, s.region? k = some g ∧ g'.life = g.life ∧ g'.defn = g.defn ∧ g.cycle = some c ∧ c.Eases s.queue k c' := by
  obtain ⟨g, found, on⟩ := h.back k g' hg hl
  obtain ⟨c, cycle, eases⟩ := on.back c' hc
  exact ⟨g, c, found, on.life, on.defn, cycle, eases⟩

theorem State.Eases.cycle_forth (h : s.Eases t) (hg : s.region? k = some g) (hc : g.cycle = some c) :
    ∃ g' c', t.region? k = some g' ∧ g'.defn = g.defn ∧ g'.cycle = some c' ∧ c.Eases s.queue k c' := by
  obtain ⟨g', found, on⟩ := h.forth k g hg (by rw [hc]; exact nofun)
  obtain ⟨c', cycle, eases⟩ := on.forth c hc
  exact ⟨g', c', found, on.defn, cycle, eases⟩

theorem State.Eases.working (h : c.Eases queue k c') (hp : c'.pub = .opened ∨ c'.pub = .sealWait) : c.pub = .opened ∨ c.pub = .sealWait := by
  rcases h.moves with e | ⟨opened, -⟩
  · exact e ▸ hp
  · exact .inl opened

theorem State.Eases.inFlight (h : s.Eases t) (left : t.nothingInFlight k) : s.nothingInFlight k := by
  obtain ⟨txs, copying, finishing, issued⟩ := left
  refine ⟨fun x hx => ?_, fun j y hy => copying j y (by rwa [h.slots]), fun j r ph hr => finishing j r ph (by rwa [h.slots]),
    fun r w hw => issued r w (h.replay_issued hw)⟩
  have later : ∃ y ∈ t.pTracker ++ t.sTracker, y.region = x.region := by
    rcases List.mem_append.1 hx with hx | hx
    · obtain ⟨y, hy, e⟩ := h.p.regions x hx
      exact ⟨y, List.mem_append_left _ hy, e⟩
    · obtain ⟨y, hy, e⟩ := h.s.regions x hx
      exact ⟨y, List.mem_append_right _ hy, e⟩
  obtain ⟨y, hy, e⟩ := later
  exact e ▸ txs y hy

theorem State.Eases.catchUp {line : Nat} (h : s.Eases t) (work : t.catchUp k line) : s.catchUp k line := by
  obtain ⟨g', hg', hl, c', hc', hp, stale, free⟩ := work
  obtain ⟨g, c, hg, life, defn, hc, eases⟩ := h.cycle_back hg' (by rw [hl]; exact nofun) hc'
  obtain ⟨pub, pending, rfl⟩ := eases.rest
  exact ⟨g, hg, life ▸ hl, c, hc, State.Eases.working eases hp, stale, fun x hx acc => defn ▸ free x ((h.p.accepted x acc).2 hx) acc⟩

theorem State.Eases.replayable {r : QRecord} (h : s.Eases t) (eligible : t.replayable r) : s.replayable r := by
  obtain ⟨g', hg', hl, c', hc', hp, target, writers⟩ := eligible
  obtain ⟨g, c, hg, life, -, hc, eases⟩ := h.cycle_back hg' (by rw [hl]; exact nofun) hc'
  obtain ⟨pub, pending, rfl⟩ := eases.rest
  exact ⟨g, hg, life ▸ hl, c, hc, State.Eases.working eases hp, target, writers⟩

theorem State.Eases.recordStands {r : QRecord} (h : s.Eases t) (stands : s.recordStands r) : t.recordStands r := by
  obtain ⟨g, hg, c, hc, why⟩ := stands
  obtain ⟨g', c', hg', defn, hc', eases⟩ := h.cycle_forth hg hc
  obtain ⟨pub, pending, rfl⟩ := eases.rest
  refine ⟨g', hg', _, hc', ?_⟩
  rcases why with copying | stale | ⟨x, hx, acc, rest⟩
  · exact .inl copying
  · exact .inr (.inl stale)
  · rw [defn]
    exact .inr (.inr ⟨x, (h.p.accepted x acc).2 hx, acc, rest⟩)

theorem State.Eases.holdStands {x y : Tx} {reason : HoldReason} (h : s.Eases t) (region : x.region = y.region) (req : x.req = y.req)
    (stands : s.holdStands x reason) : t.holdStands y reason := by
  obtain ⟨k, hk, g, hg, c, hc, line, full, shares⟩ := stands
  obtain ⟨g', c', hg', defn, hc', eases⟩ := h.cycle_forth hg hc
  obtain ⟨pub, pending, rfl⟩ := eases.rest
  rw [region] at hk
  refine ⟨k, hk, g', hg', _, hc', fun why => ?_, fun why => ?_, fun why => ?_⟩
  · rw [defn, ← req]
    exact line why
  · rw [h.queue]
    exact full why
  · rw [defn, ← req, State.overlapped, h.queue]
    exact shares why

theorem State.Eases.readiness (h : s.Eases t) (hc : ∃ pub pending, c' = { c with pub := pub, sealPending := pending })
    (ready : t.readiness k c') : s.readiness k c := by
  obtain ⟨pub, pending, rfl⟩ := hc
  rw [State.readiness, h.queue] at ready
  exact ready

theorem State.Eases.restful (h : s.Eases t) (rest : s.restful) : t.restful := by
  obtain ⟨drains, waits, holds, idle, stands, takes, presents, grants, retiring, soft⟩ := rest
  refine ⟨fun k g' hg' c' hc' hl hp => ?_, fun k g' hg' c' hc' hl hp ready => ?_, fun y hy reason held => ?_,
    fun hi r hr eligible => ?_, fun busy free r hr sel => ?_, fun free k line work => ?_, fun none => ?_, fun hlen hm => ?_,
    fun k g' hg' hl left => ?_, fun hs quiet => ?_⟩
  · obtain ⟨g, c, hg, life, -, hc, eases⟩ := h.cycle_back hg' (by rw [hl]; exact nofun) hc'
    have before : c.pub = .draining := by
      rcases eases.moves with e | ⟨-, e | ⟨e, -⟩⟩
      · exact e ▸ hp
      · rw [e] at hp
        cases hp
      · rw [e] at hp
        cases hp
    obtain ⟨pub, pending, rfl⟩ := eases.rest
    exact drains k g hg c hc (life ▸ hl) before
  · obtain ⟨g, c, hg, life, -, hc, eases⟩ := h.cycle_back hg' (by rw [hl]; exact nofun) hc'
    have was := h.readiness eases.rest ready
    rcases eases.moves with e | ⟨-, e | ⟨-, unready⟩⟩
    · exact waits k g hg c hc (life ▸ hl) (e ▸ hp) was
    · rw [e] at hp
      cases hp
    · rw [(Cycle.readyToSeal_iff s c k).2 was] at unready
      cases unready
  · obtain ⟨x, hx, before, region, req⟩ := h.p.held y hy reason held
    exact h.holdStands region req (holds x hx reason before)
  · exact idle (h.replay_idle hi) r (h.queue ▸ hr) (h.replayable eligible)
  · exact h.recordStands (stands (h.busy busy) (h.isIssued ▸ free) r (h.queue ▸ hr) sel)
  · rw [h.slots] at free
    exact takes free k line (h.catchUp work)
  · rw [h.ready]
    exact presents (h.presented ▸ none)
  · rw [h.outstanding] at hlen
    obtain ⟨engine, p, sPort⟩ := grants hlen (h.mRequest ▸ hm)
    exact ⟨h.presented.trans engine, fun x hx acc => p x ((h.p.accepted x acc).1 hx) acc,
      fun x hx acc => sPort x ((h.s.accepted x acc).1 hx) acc⟩
  · obtain ⟨g, hg, on⟩ := h.back k g' hg' (by rw [hl]; exact nofun)
    exact retiring k g hg (on.life ▸ hl) (h.inFlight left)
  · obtain ⟨out, request, engine, p, sPort⟩ := quiet
    exact soft (h.softReset ▸ hs) ⟨h.outstanding ▸ out, h.mRequest ▸ request, h.presented ▸ engine,
      fun x hx acc => p x ((h.p.accepted x acc).2 hx) acc, fun x hx acc => sPort x ((h.s.accepted x acc).2 hx) acc⟩

theorem State.Eases.sameEngine (h : s.Eases t) : s.SameEngine t :=
  ⟨by rw [State.allReady, h.ready, h.readyNow, State.allReady], h.presented, h.outstanding, h.slots, h.isIssued⟩

theorem State.Eases.keeps (h : s.Eases t) (rest : s.restful) (requests : s.requestsAgree) : t.restful ∧ t.requestsAgree := by
  obtain ⟨requested, none⟩ := (State.requestsAgree_iff s).1 requests
  exact ⟨h.restful rest, (State.requestsAgree_iff t).2 ⟨h.sameEngine.requested requested, h.readyNow.trans none⟩⟩

/-! ### How such changes are made -/

/-- The blocks between the records and the memory. -/
structure Blocks where
  queue : List QRecord
  slots : Vector CopySlot 4
  ready : List EngineReq
  readyNow : List EngineReq
  presented : Option EngineReq
  outstanding : List Outstanding
  mRequest : Option MRequest
  softReset : Bool

def State.blocks (s : State) : Blocks where
  queue := s.queue
  slots := s.slots
  ready := s.ready
  readyNow := s.readyNow
  presented := s.presented
  outstanding := s.outstanding
  mRequest := s.mRequest
  softReset := s.softReset

/-- Definitions, slot states, cycle items: in the same slots, but for DEFINED regions without cycle items. -/
structure State.RecordsEase (s t : State) : Prop where
  back : ∀ k g', t.region? k = some g' → g'.life ≠ .defined → ∃ g, s.region? k = some g ∧ g.Eases s.queue k g'
  forth : ∀ k g, s.region? k = some g → g.cycle ≠ none → ∃ g', t.region? k = some g' ∧ g.Eases s.queue k g'

theorem State.recordsEase_of (h : ∀ k, recordsIn (Region.Eases s.queue k) (s.region? k) (t.region? k)) : s.RecordsEase t :=
  ⟨fun k _ hg _ => (h k).exists_of_some_right hg, fun k _ hg _ => (h k).exists_of_some hg⟩

theorem State.recordsEase_of_table (h : t.table = s.table) : s.RecordsEase t := State.recordsEase_of fun k => by
  rw [State.region?, State.region?, h]
  exact .refl (fun g => Region.eases_of_same s.queue k rfl rfl rfl) _

theorem State.RecordsEase.eases (h : s.RecordsEase t) (blocks : t.blocks = s.blocks)
    (replay : t.replay = s.replay ∨ ∃ w w', s.replay = .waiting w ∧ t.replay = .waiting w') (p : TrackerEases s.pTracker t.pTracker)
    (sPort : TrackerEases s.sTracker t.sTracker) : s.Eases t :=
  ⟨h.back, h.forth, congrArg Blocks.queue blocks, replay, congrArg Blocks.slots blocks, congrArg Blocks.ready blocks,
    congrArg Blocks.readyNow blocks, congrArg Blocks.presented blocks, congrArg Blocks.outstanding blocks, congrArg Blocks.mRequest blocks,
    congrArg Blocks.softReset blocks, p, sPort⟩

theorem State.Eases.blocks (h : s.Eases t) : t.blocks = s.blocks := by
  rw [State.blocks, h.queue, h.slots, h.ready, h.readyNow, h.presented, h.outstanding, h.mRequest, h.softReset, State.blocks]

theorem State.Eases.records (h : s.Eases t) : s.RecordsEase t := ⟨h.back, h.forth⟩

theorem State.RecordsEase.of_table (h : s.RecordsEase t) (ht : u.table = t.table) : s.RecordsEase u := by
  have same : ∀ k, u.region? k = t.region? k := fun k => by rw [State.region?, ht, State.region?]
  exact ⟨fun k g hg => h.back k g (same k ▸ hg), fun k g hg hc => same k ▸ h.forth k g hg hc⟩

theorem State.eases_refl (s : State) : s.Eases s :=
  (State.recordsEase_of_table rfl).eases rfl (.inl rfl) (trackerEases_refl _) (trackerEases_refl _)

/-- What the blocks do not look at may change. -/
theorem State.Eases.outer (h : s.Eases t) (ht : u.table = t.table) (hb : u.blocks = t.blocks) (hr : u.replay = t.replay)
    (hp : u.pTracker = t.pTracker) (hs : u.sTracker = t.sTracker) : s.Eases u :=
  (h.records.of_table ht).eases (hb.trans h.blocks) (hr ▸ h.replay) (hp ▸ h.p) (hs ▸ h.s)

theorem State.Eases.answer (h : s.Eases t) (n : Nat) (r : Result) (d : List Byte) : s.Eases (t.answer n r d) := h.outer rfl rfl rfl rfl rfl

theorem Region.Eases.keeps {a b : Region} (h : g.Eases queue k a) (hd : b.defn = a.defn) (hl : b.life = a.life) (hc : b.cycle = a.cycle) :
    g.Eases queue k b :=
  ⟨hd.trans h.defn, hl.trans h.life, fun c hb => h.back c (hc ▸ hb), fun c hg => hc ▸ h.forth c hg⟩

/-- Items of a record that no block looks at may change. -/
theorem State.Eases.modRegion (h : s.Eases t) (k : SlotNo) (f : Region → Region)
    (keeps : ∀ g, (f g).defn = g.defn ∧ (f g).life = g.life ∧ (f g).cycle = g.cycle) : s.Eases (t.modRegion k f) := by
  have region : ∀ j, (t.modRegion k f).region? j = (t.region? j).map fun g => if j = k then f g else g := fun j => by
    rw [t.modRegion_eq_mapRegions k f, State.region?_mapRegions]
  have same : ∀ (j : SlotNo) (x : Region), (if j = k then f x else x).defn = x.defn ∧ (if j = k then f x else x).life = x.life ∧
      (if j = k then f x else x).cycle = x.cycle := fun j x => by
    split
    · exact keeps x
    · exact ⟨rfl, rfl, rfl⟩
  refine State.RecordsEase.eases ⟨fun j g' hg' hl => ?_, fun j g hg hc => ?_⟩ h.blocks h.replay h.p h.s
  · rw [region, Option.map_eq_some_iff] at hg'
    obtain ⟨x, hx, rfl⟩ := hg'
    obtain ⟨defn, life, cycle⟩ := same j x
    obtain ⟨g, hg, on⟩ := h.back j x hx (life ▸ hl)
    exact ⟨g, hg, on.keeps defn life cycle⟩
  · obtain ⟨x, hx, on⟩ := h.forth j g hg hc
    obtain ⟨defn, life, cycle⟩ := same j x
    exact ⟨_, by rw [region, hx, Option.map_some], on.keeps defn life cycle⟩

theorem TrackerEases.trans {l'' : List Tx} (h : TrackerEases l l') (h' : TrackerEases l' l'') : TrackerEases l l'' := by
  refine ⟨fun x hx => (h'.accepted x hx).trans (h.accepted x hx), fun z hz reason held => ?_, fun x hx => ?_⟩
  · obtain ⟨y, hy, held', region', req'⟩ := h'.held z hz reason held
    obtain ⟨x, hx, held'', region, req⟩ := h.held y hy reason held'
    exact ⟨x, hx, held'', region.trans region', req.trans req'⟩
  · obtain ⟨y, hy, region⟩ := h.regions x hx
    obtain ⟨z, hz, region'⟩ := h'.regions y hy
    exact ⟨z, hz, region'.trans region⟩

/-- The held transaction ages, or is answered. -/
theorem State.Eases.modHeld (h : s.Eases t) {f : Tx → Tx} (keeps : ∀ x, x.isHeld = true → (f x).region = x.region ∧ (f x).req = x.req ∧
    (f x).state ≠ .accepted ∧ ∀ reason, (f x).heldFor = some reason → x.heldFor = some reason) : s.Eases (t.modHeld f) := by
  have tracker : TrackerEases t.pTracker (t.modHeld f).pTracker :=
    trackerEases_map (f := fun x => if x.isHeld then f x else x) _ (fun x hx => by simp [hx]) fun x hx => by simpa [hx] using keeps x hx
  have records : s.RecordsEase (t.modHeld f) := h.records.of_table rfl
  exact records.eases h.blocks h.replay (h.p.trans tracker) h.s

theorem State.Eases.holdExpiry (h : s.Eases t) : s.Eases t.holdExpiry := by
  have answered : s.Eases (t.modHeld fun x => { x with state := .done .timeout [] }) :=
    h.modHeld fun x _ => ⟨rfl, rfl, nofun, nofun⟩
  rcases t.holdExpiry_cases with e | ⟨x, -, -, e | ⟨k, -, e⟩⟩ <;> rw [e]
  · exact h
  · exact answered
  · exact answered.modRegion k _ fun g => ⟨rfl, rfl, rfl⟩

theorem State.eases_aged (s : State) : s.Eases { s with timeBase := s.timeBase + 1 }.ageHold := by
  have waits : s.Eases { s with timeBase := s.timeBase + 1 } := s.eases_refl.outer rfl rfl rfl rfl rfl
  refine waits.modHeld fun x hx => ?_
  obtain ⟨reason, held⟩ := Option.ne_none_iff_exists'.1 ((Tx.isHeld_iff x).1 hx)
  obtain ⟨age, limit, hst⟩ := (Tx.heldFor_eq_some_iff x reason).1 held
  rw [hst]
  exact ⟨rfl, rfl, nofun, fun r hr => held.trans hr⟩

/-- A request that is answered at once joins its tracker as DONE. -/
theorem State.eases_addTx (s : State) (port : Port) (req : Request) (region : Option SlotNo) (status : Status) :
    s.Eases (s.addTx port req region none none (.done status []) none) := by
  have records : s.RecordsEase (s.addTx port req region none none (.done status []) none) := State.recordsEase_of_table (s.addTx_table ..)
  cases port with
  | p => exact records.eases rfl (.inl rfl) (trackerEases_done _ rfl) (trackerEases_refl _)
  | s => exact records.eases rfl (.inl rfl) (trackerEases_refl _) (trackerEases_done _ rfl)

theorem State.eases_answered {port : Port} {req : Request} {res : Resolution} (now : res.answered = true) : s.Eases (s.accept port req res) := by
  cases res with
  | boundary => exact s.eases_addTx port req none .boundary
  | unmatchedRefused => exact (s.eases_addTx port req none .refused).outer rfl rfl rfl rfl rfl
  | refused k => exact (s.eases_addTx port req (some k) .refused).modRegion k _ fun g => ⟨rfl, rfl, rfl⟩
  | fenced k => exact s.eases_addTx port req (some k) .fenced
  | passed => cases now
  | issue => cases now
  | draftWrite => cases now
  | holdWrite => cases now
  | holdQueue => cases now
  | holdOverlap => cases now
  | posted => cases now

theorem State.RecordsEase.mapped {f : SlotNo → Region → Region} (h : s.RecordsEase t) (ht : t = s.mapRegions f) : s.Eases t := by
  subst ht
  have blocks : (s.mapRegions f).blocks = s.blocks := by
    rw [State.blocks, s.mapRegions_queue, s.mapRegions_slots, s.mapRegions_ready, s.mapRegions_readyNow, s.mapRegions_presented,
      s.mapRegions_outstanding, s.mapRegions_mRequest, s.mapRegions_softReset, State.blocks]
  have p : TrackerEases s.pTracker (s.mapRegions f).pTracker := by
    rw [s.mapRegions_pTracker]
    exact trackerEases_refl _
  have sPort : TrackerEases s.sTracker (s.mapRegions f).sTracker := by
    rw [s.mapRegions_sTracker]
    exact trackerEases_refl _
  exact h.eases blocks (.inl (s.mapRegions_replay f)) p sPort

theorem State.eases_sealGroups (s : State) (groups : Fin 4 → Bool) : s.Eases (s.sealGroups groups) := by
  refine (State.recordsEase_of fun k => ?_).mapped (State.sealGroups.eq_1 s groups)
  rw [s.region?_sealGroups]
  refine .map fun g _ => ?_
  split
  · refine ⟨rfl, rfl, fun c' hc' => ?_, fun c hc => ⟨_, by rw [Region.modCycle_cycle, hc, Option.map_some], c.eases_takeSeal s.queue k⟩⟩
    rw [Region.modCycle_cycle, Option.map_eq_some_iff] at hc'
    obtain ⟨c, hc, rfl⟩ := hc'
    exact ⟨c, hc, c.eases_takeSeal s.queue k⟩
  · exact Region.eases_of_same s.queue k rfl rfl rfl

theorem State.eases_defined (free : s.region? k = none) (d : Definition) : s.Eases (s.putRegion k (some (newRegion d))) := by
  refine State.RecordsEase.eases ⟨fun j g' hg' hl => ?_, fun j g hg _ => ?_⟩ rfl (.inl rfl) (trackerEases_refl _) (trackerEases_refl _)
  · rw [State.region?_putRegion] at hg'
    split at hg'
    · cases hg'
      exact absurd rfl hl
    · exact ⟨g', hg', Region.eases_of_same s.queue j rfl rfl rfl⟩
  · have other : j ≠ k := fun e => by
      rw [e, free] at hg
      cases hg
    exact ⟨g, by rwa [State.region?_putRegion, if_neg other], Region.eases_of_same s.queue j rfl rfl rfl⟩

theorem State.eases_undefined (found : s.region? k = some g) (none : g.cycle = none) : s.Eases (s.putRegion k Option.none) := by
  refine State.RecordsEase.eases ⟨fun j g' hg' _ => ?_, fun j g' hg' hc => ?_⟩ rfl (.inl rfl) (trackerEases_refl _) (trackerEases_refl _)
  · rw [State.region?_putRegion] at hg'
    split at hg'
    · cases hg'
    · exact ⟨g', hg', Region.eases_of_same s.queue j rfl rfl rfl⟩
  · have other : j ≠ k := fun e => by
      rw [e, found, Option.some.injEq] at hg'
      exact hc (hg' ▸ none)
    exact ⟨g', by rwa [State.region?_putRegion, if_neg other], Region.eases_of_same s.queue j rfl rfl rfl⟩

end Sys2Proof.Machine
end

section
/-! PROOFS. The acts of the blocks as commands of their own: from a state at rest they change nothing. Settles O51. -/

namespace Sys2Proof.Machine

variable {s t u : State} {i : Instr} {k : SlotNo} {g g' : Region} {c c' : Cycle}

/-! ### The acts of the blocks find nothing to do -/

theorem State.holdRelease_of_restful (rest : s.restful) : s.holdRelease = s := by
  obtain ⟨-, -, holds, -⟩ := rest
  rcases s.holdRelease_cases with e | ⟨x, k, g, c, reason, age, limit, hx, hk, hst, hg, hc, released⟩
  · exact e
  have held : x.heldFor = some reason := by rw [Tx.heldFor, hst]
  obtain ⟨k', hk', g', hg', c', hc', line, full, shares⟩ := holds x (List.mem_of_find?_eq_some hx) reason held
  obtain rfl : k = k' := Option.some.inj (hk.symm.trans hk')
  obtain rfl : g = g' := Option.some.inj (hg.symm.trans hg')
  obtain rfl : c = c' := Option.some.inj (hc.symm.trans hc')
  rcases released with ⟨why, copied, -⟩ | ⟨why, place, -⟩ | ⟨why, clear, -⟩
  · have behind := line why
    rcases copied with e | e <;> simp [e] at behind
  · have := full why
    omega
  · have := (s.overlapsQueue_iff k g.defn x.req).2 (shares why)
    simp [clear] at this

theorem State.grant_of_restful (rest : s.restful) : s.grant = s := by
  obtain ⟨-, -, -, -, -, -, -, grants, -⟩ := rest
  refine State.grant_of_none ?_
  by_cases full : s.mRequest ≠ none ∨ 8 ≤ s.outstanding.length
  · exact State.grantee_eq_none_of_not_canGrant full
  · simp only [not_or, not_le, not_not] at full
    obtain ⟨engine, p, sPort⟩ := grants full.2 full.1
    exact State.grantee_eq_none_of_quiet ((s.presents_eq_none_iff .p).2 p) ((s.presents_eq_none_iff .s).2 sPort) engine

theorem State.copyTake_of_restful (rest : s.restful) : s.copyTake = s := by
  obtain ⟨-, -, -, -, -, takes, -⟩ := rest
  exact State.copyTake_of_done takes

theorem State.sealedEntry_of_restful (rest : s.restful) (k : SlotNo) : s.modRegion k (·.sealedEntry s.queue k) = s := by
  obtain ⟨-, waits, -⟩ := rest
  refine State.modRegion_fixed s k _ fun g hg => ?_
  by_cases hl : g.life = .active
  · cases hc : g.cycle with
    | none => exact (Region.controllers_of_not (.inr hc) _ _).1
    | some c =>
      have unready : ¬ (c.pub = .sealWait ∧ c.readyToSeal s.queue k = true) := fun ⟨hp, ready⟩ =>
        waits k g hg c hc hl hp ((Cycle.readyToSeal_iff s c k).1 ready)
      rw [Region.sealedEntry_of_active hl hc, if_neg unready, Region.withCycle_self hc]
  · exact (Region.controllers_of_not (.inl hl) _ _).1

theorem State.drainEnd_of_restful (rest : s.restful) (k : SlotNo) : s.modRegion k (·.drainEnd s.queue k) = s := by
  obtain ⟨drains, -⟩ := rest
  refine State.modRegion_fixed s k _ fun g hg => ?_
  by_cases hl : g.life = .active
  · cases hc : g.cycle with
    | none => exact (Region.controllers_of_not (.inr hc) _ _).2
    | some c =>
      have readers : ¬ (c.pub = .draining ∧ c.readers c.draft = 0) := fun ⟨hp, empty⟩ =>
        (drains k g hg c hc hl hp).ne' empty
      rw [Region.drainEnd_of_active hl hc, if_neg readers, Region.withCycle_self hc]
  · exact (Region.controllers_of_not (.inl hl) _ _).2

theorem State.returnIf_of_restful (rest : s.restful) (k : SlotNo) : s.modRegion k (·.returnIf (s.nothingLeft k)) = s := by
  obtain ⟨-, -, -, -, -, -, -, -, retiring, -⟩ := rest
  refine State.modRegion_fixed s k _ fun g hg => ?_
  rcases g.returnIf_cases (s.nothingLeft k) with ⟨e, -⟩ | ⟨hl, left, -⟩
  · exact e
  · exact absurd ((State.nothingLeft_iff s k).1 left) (retiring k g hg hl)

theorem State.softResetEnd_of_restful (rest : s.restful) : s.softResetEnd = s := by
  obtain ⟨-, -, -, -, -, -, -, -, -, soft⟩ := rest
  rw [State.softResetEnd, if_neg]
  rw [Bool.and_eq_true]
  exact fun ⟨hs, idle⟩ => soft hs ((State.portIdle_iff s).1 idle)

/-! ### The replay unit waits on -/

/-- A selection or an issue by itself is the unit's part in a happening, or nothing. -/
theorem State.replaySelect_or (s : State) : s.replaySelect = s ∨ s.replaySelect = s.replayAdvance := by
  cases hr : s.replay with
  | idle => exact .inr (by simp only [State.replayAdvance, hr])
  | waiting => exact .inl (by simp only [State.replaySelect, hr])
  | issued => exact .inl (by simp only [State.replaySelect, hr])

theorem State.replayIssue_or (s : State) : s.replayIssue = s ∨ s.replayIssue = s.replayAdvance := by
  cases hr : s.replay with
  | idle => exact .inl (by simp only [State.replayIssue, hr])
  | waiting => exact .inr (by simp only [State.replayAdvance, hr])
  | issued => exact .inl (by simp only [State.replayIssue, hr])

/-- At rest the unit can at most wait for another reason. -/
theorem State.eases_replay (rest : s.restful) (none : s.readyNow = []) (h : t = s ∨ t = s.replayAdvance) : s.Eases t.commitReady := by
  obtain ⟨-, -, -, idle, stands, -⟩ := rest
  have same : t = s → s.Eases t.commitReady := fun e => by
    rw [e, State.commitReady_of_none none]
    exact s.eases_refl
  rcases h with e | e
  · exact same e
  · rcases State.ReplayRests.advance ⟨idle, stands⟩ with e' | ⟨w, w', d, waits, e'⟩ <;> rw [e'] at e
    · exact same e
    · have records : s.RecordsEase t := State.recordsEase_of_table (by rw [e])
      have eases : s.Eases t := by
        subst e
        exact records.eases rfl (.inr ⟨w, w', waits, rfl⟩) (trackerEases_refl _) (trackerEases_refl _)
      rwa [State.commitReady_of_none (eases.readyNow.trans none)]

/-! ### After a hard reset -/

/-- A part without regions, records, transactions and requests is at rest. -/
theorem State.restful_of_empty (table : ∀ k, s.region? k = none) (queue : s.queue = []) (replay : s.replay = .idle) (ready : s.ready = [])
    (presented : s.presented = none) (p : s.pTracker = []) (sPort : s.sTracker = []) (soft : s.softReset = false) : s.restful := by
  have region : ∀ {k : SlotNo} {g : Region}, g ∈ s.region? k → False := fun hg => by
    rw [table] at hg
    cases hg
  refine ⟨fun k g hg => (region hg).elim, fun k g hg => (region hg).elim, by simp [p], by simp [queue], fun busy => absurd replay busy,
    fun _ k line ⟨g, hg, _⟩ => region hg, fun _ => ready, by simp [presented, p, sPort], fun k g hg => (region hg).elim, by simp [soft]⟩

theorem State.restful_hardReset (s : State) (up : Bool) : (s.hardReset up).restful :=
  State.restful_of_empty (s.hardReset_region? up) rfl rfl rfl rfl rfl rfl rfl

theorem State.requestsAgree_hardReset (s : State) (up : Bool) : (s.hardReset up).requestsAgree :=
  (State.requestsAgree_iff _).2 ⟨s.requested_hardReset up, rfl⟩

/-! ### Every command -/

theorem State.Does.restful (h : s.Does i t) (safe : s.safe) (rest : s.restful) : t.restful ∧ t.requestsAgree := by
  have placed : s.wellPlaced := by
    obtain ⟨-, -, placed, -⟩ := safe
    exact placed
  have requests : s.requestsAgree := by
    obtain ⟨-, -, -, -, -, -, -, -, -, -, -, -, -, -, requests, -⟩ := safe
    exact requests
  have readyNow := ((State.requestsAgree_iff s).1 requests).2
  have same : t = s → t.restful ∧ t.requestsAgree := fun e => by
    rw [e]
    exact ⟨rest, requests⟩
  have eased : s.Eases t → t.restful ∧ t.requestsAgree := fun e => e.keeps rest requests
  cases h with
  | idle => exact same rfl
  | link i reply free conds data => exact eased (s.eases_refl.outer rfl rfl rfl rfl rfl)
  | answered port req can now => exact eased (State.eases_answered now)
  | accepted port req can later => exact (State.Opens.accepted port req can).settle safe _
  | taken port x older front => exact (State.Opens.taken port x older front).settle safe _
  | holdRelease => exact same (State.holdRelease_of_restful rest)
  | advance => exact eased s.eases_aged.holdExpiry
  | holdExpiry => exact eased s.eases_refl.holdExpiry
  | grant => exact same (State.grant_of_restful rest)
  | memoryTakes => exact State.Opens.memoryTakes.settle safe _
  | mResponse status data o older oldest => exact (State.Opens.response o older status data oldest).settle safe _
  | copyTake => exact same (by rw [State.copyTake_of_restful rest, State.commitReady_of_none readyNow])
  | replaySelect => exact eased (State.eases_replay rest readyNow s.replaySelect_or)
  | replayIssue => exact eased (State.eases_replay rest readyNow s.replayIssue_or)
  | sealedEntry k => exact same (State.sealedEntry_of_restful rest k)
  | drainEnd k => exact same (State.drainEnd_of_restful rest k)
  | returnToDefined k => exact same (State.returnIf_of_restful rest k)
  | sealLine line => exact eased (s.eases_sealGroups _)
  | sealMask b mask => exact eased ((s.eases_sealGroups _).answer _ _ _)
  | epoch source => exact (State.Opens.epoch source).settle safe _
  | define b p k slot free valid => exact eased ((State.eases_defined free _).answer _ _ _)
  | undefine b k g slot found life => exact eased ((State.eases_undefined found (State.cycle_of_defined placed found life)).answer _ _ _)
  | activate i matched k g row found life apart pool => exact (State.Opens.activated matched k g found life apart pool).settle safe _
  | retire b k g found life => exact (State.Opens.retired k g found life).settle safe _
  | revive b k g found ok => exact (State.Opens.revived k g found ok).settle safe _
  | scroll b v k g found life below => exact eased ((s.eases_refl.modRegion k _ fun g => g.scrolled_keeps v.toNat).answer _ _ _)
  | setStep b v k g found life below => exact eased ((s.eases_refl.modRegion k
      (fun g => { g with rot := g.rot.map fun x => { x with step := v.toNat } }) fun g => ⟨rfl, rfl, rfl⟩).answer _ _ _)
  | clear b mask options k g found =>
    refine eased ((s.eases_refl.modRegion k _ fun g => ?_).answer _ _ _)
    obtain ⟨defn, life, cycle, -⟩ := g.cleared_keeps mask (asksCounters options)
    exact ⟨defn, life, cycle⟩
  | policy b hold floor unmatched mask ok => exact eased (s.eases_refl.outer rfl rfl rfl rfl rfl)
  | softreset b => exact State.Opens.softReset.settle safe _
  | softResetEnd => exact same (State.softResetEnd_of_restful rest)
  | hardReset i up row => exact ⟨s.restful_hardReset up, s.requestsAgree_hardReset up⟩

/-- Settles O51: whatever the happening began with, the rest of it ends with nothing left to do; and every command goes on to that rest from
an ordered state, finds nothing to do, or changes only what no block looks at. -/
theorem happeningsEndWithNothingLeftToDo : Obligations.HappeningsEndWithNothingLeftToDo := by
  unfold Obligations.HappeningsEndWithNothingLeftToDo
  refine ⟨fun s => ?_, fun s t safe rest hstep => ?_⟩
  · obtain ⟨takes, drained, retiring, presents, readyNow, soft⟩ := s.settle_leaves_nothing
    exact ⟨takes, fun k g hg c hc hl hp => drained k g c hg hl hc hp, fun k g hg hl => retiring k g hg hl, presents, readyNow, soft⟩
  · obtain ⟨pending, i, hdoes⟩ := State.does_of_step hstep
    exact hdoes.restful (s := { s with pending := pending }) safe rest

end Sys2Proof.Machine
end
